-- ==== Sys2Proof/Word.lean ====
section
/-! DEFINITION. Word.lean: the widths the spec fixes (00_scope R11 to R14) and the plain 8-bit inversion. -/

namespace Sys2Proof

/-- A host register or a command word: 32 bits (00_scope R12). -/
abbrev Word := BitVec 32

/-- An OutputByte, a RegisterAddress or a buffer entry: 8 bits (00_scope R11). -/
abbrev Byte := BitVec 8

/-- `~8 a` is `a ^ 0xFF` (00_scope R14). -/
def not8 (a : Byte) : Byte := a ^^^ 0xFF#8

end Sys2Proof
end

