-- ==== Sys2Proof/Syntax.lean ====
section
/-! DEFINITION. Syntax.lean: the twelve commands of 30_encoding R102, one constructor per row of spec/opcode_table.json. -/

namespace Sys2Proof

/-- Register family (30_encoding R100 FAM, 40_register_map_and_bus R140). -/
inductive Family where
  | input
  | output
  | polarity
  | config
  deriving DecidableEq, Repr

/-- Addressing mode (30_encoding R100 AI): auto-increment or not. -/
inductive AddrMode where
  | nonAi
  | ai
  deriving DecidableEq, Repr

/-- Pattern mode (30_encoding R100 M, D11): clearing is M = 0, lighting is M = 1. -/
inductive Mode where
  | clearing
  | lighting
  deriving DecidableEq, Repr

/-- SETALL's level (30_encoding R100 M, D11): off is M = 0, on is M = 1. -/
inductive Level where
  | off
  | on
  deriving DecidableEq, Repr

/-- A command (30_encoding R102). A port operand is a number, so that RegisterMap's check of it
(40_register_map_and_bus R141) and the assembler's check (30_encoding R114: a port is 0..3) both have something
to check; WellFormed.lean says which terms have a command word. -/
inductive Instr where
  | cfgout
  | wrport (port : Nat) (data : Byte)
  | setall (level : Level)
  | setpins
  | dump
  | regaddr (port : Nat) (family : Family) (mode : AddrMode)
  | move1 (mode : Mode)
  | move1in8 (mode : Mode)
  | move1in4 (mode : Mode)
  | incr1in8 (mode : Mode)
  | decr1in8 (mode : Mode)
  | alternate
  deriving DecidableEq, Repr

end Sys2Proof
end

