-- ==== Sys2Proof/WellFormed.lean ====
section
/-! DEFINITION. WellFormed.lean: which commands have a command word (30_encoding R100, R114). -/

namespace Sys2Proof

/-- The PORT field is 2 bits wide: "A port is 0..3 ... and a value outside its field is an assembly error"
(30_encoding R114). Port 3 is encodable, though no valid port (30_encoding R105). -/
def portEncodable (port : Nat) : Bool := decide (port < 4)

/-- A command that has a command word. Every operand but a port is of a type that only its field's values
inhabit. -/
def Instr.wellFormed : Instr → Bool
  | .cfgout => true
  | .wrport port _ => portEncodable port
  | .setall _ => true
  | .setpins => true
  | .dump => true
  | .regaddr port _ _ => portEncodable port
  | .move1 _ => true
  | .move1in8 _ => true
  | .move1in4 _ => true
  | .incr1in8 _ => true
  | .decr1in8 _ => true
  | .alternate => true

end Sys2Proof
end

