-- ==== Sys2Proof/Decode.lean ====
section
/-! DEFINITION. Decode.lean: the command word of 30_encoding R100 to R106, read and written. -/

namespace Sys2Proof

/-! ### Fields (30_encoding R100, R101) -/

def fieldOpc  (w : Word) : Byte     := w.extractLsb' 0 8
def fieldM    (w : Word) : Bool     := w.getLsbD 8
def fieldPort (w : Word) : BitVec 2 := w.extractLsb' 9 2
def fieldFam  (w : Word) : BitVec 2 := w.extractLsb' 11 2
def fieldAi   (w : Word) : Bool     := w.getLsbD 13
def fieldData (w : Word) : Byte     := w.extractLsb' 16 8

/-- FAM: 0 input, 1 output, 2 polarity, 3 config (30_encoding R100). -/
def Family.ofBits (b : BitVec 2) : Family :=
  if b = 0#2 then .input else if b = 1#2 then .output else if b = 2#2 then .polarity else .config

def Family.toBits : Family → BitVec 2
  | .input => 0#2
  | .output => 1#2
  | .polarity => 2#2
  | .config => 3#2

/-- AI: 1 auto-increment, 0 non-auto-increment (30_encoding R100). -/
def AddrMode.ofBit (b : Bool) : AddrMode := if b then .ai else .nonAi

def AddrMode.toBit : AddrMode → Bool
  | .nonAi => false
  | .ai => true

/-- M of a pattern: 1 lighting, 0 clearing (30_encoding R100). -/
def Mode.ofBit (b : Bool) : Mode := if b then .lighting else .clearing

def Mode.toBit : Mode → Bool
  | .clearing => false
  | .lighting => true

/-- M of SETALL: 1 on, 0 off (30_encoding R100). -/
def Level.ofBit (b : Bool) : Level := if b then .on else .off

def Level.toBit : Level → Bool
  | .off => false
  | .on => true

/-! ### Decoding (30_encoding R103, R104) -/

/-- One row of 30_encoding R103: a word belongs to it exactly when `(w & mask) = pattern`; `read` takes its operands. -/
structure Row where
  mnemonic : String
  pattern  : Word
  mask     : Word
  read     : Word → Instr

/-- Whether a word belongs to a row (30_encoding R103). -/
def Row.accepts (r : Row) (w : Word) : Bool := (w &&& r.mask) == r.pattern

/-- The port and map commands' rows of 30_encoding R103. -/
def portRows : List Row :=
  [ ⟨"CFGOUT",    0x00000001#32, 0xFFFFFFFF#32, fun _ => .cfgout⟩,
    ⟨"WRPORT",    0x00000002#32, 0xFF00F9FF#32, fun w => .wrport (fieldPort w).toNat (fieldData w)⟩,
    ⟨"SETALL",    0x00000003#32, 0xFFFFFEFF#32, fun w => .setall (Level.ofBit (fieldM w))⟩,
    ⟨"SETPINS",   0x00000004#32, 0xFFFFFFFF#32, fun _ => .setpins⟩,
    ⟨"DUMP",      0x00000005#32, 0xFFFFFFFF#32, fun _ => .dump⟩,
    ⟨"REGADDR",   0x00000006#32, 0xFFFFC1FF#32, fun w =>
      .regaddr (fieldPort w).toNat (Family.ofBits (fieldFam w)) (AddrMode.ofBit (fieldAi w))⟩ ]

/-- The pattern commands' rows of 30_encoding R103. -/
def patternRows : List Row :=
  [ ⟨"MOVE1",     0x00000010#32, 0xFFFFFEFF#32, fun w => .move1 (Mode.ofBit (fieldM w))⟩,
    ⟨"MOVE1IN8",  0x00000011#32, 0xFFFFFEFF#32, fun w => .move1in8 (Mode.ofBit (fieldM w))⟩,
    ⟨"MOVE1IN4",  0x00000012#32, 0xFFFFFEFF#32, fun w => .move1in4 (Mode.ofBit (fieldM w))⟩,
    ⟨"INCR1IN8",  0x00000013#32, 0xFFFFFEFF#32, fun w => .incr1in8 (Mode.ofBit (fieldM w))⟩,
    ⟨"DECR1IN8",  0x00000014#32, 0xFFFFFEFF#32, fun w => .decr1in8 (Mode.ofBit (fieldM w))⟩,
    ⟨"ALTERNATE", 0x00000015#32, 0xFFFFFFFF#32, fun _ => .alternate⟩ ]

/-- All rows of 30_encoding R103. -/
def rows : List Row := portRows ++ patternRows

/-- Why a word spells no command (30_encoding R104). -/
inductive DecodeError where
  /-- OPC is not in the table of 30_encoding R102. -/
  | unassignedOpcode (opc : Byte)
  /-- OPC is in the table, but an unused or reserved bit is 1. -/
  | reservedBits (opc : Byte)
  /-- Fewer than the four bytes of a command word (30_encoding R106). -/
  | truncated
  deriving DecidableEq, Repr

/-- The first of the given rows that accepts the word. -/
def firstRow (w : Word) : List Row → Option Instr
  | [] => none
  | r :: rs => if r.accepts w then some (r.read w) else firstRow w rs

/-- Decode a command word, or reject it by name (30_encoding R103, R104). -/
def decodeWord (w : Word) : Except DecodeError Instr :=
  match firstRow w rows with
  | some i => .ok i
  | none =>
    if rows.any (fun r => fieldOpc r.pattern == fieldOpc w) then .error (.reservedBits (fieldOpc w))
    else .error (.unassignedOpcode (fieldOpc w))

/-! ### Bytes (20_memory R76: lane `k` of a word is bits `[8k+7:8k]`) -/

/-- Byte lane `k` of a word (20_memory R76). -/
def lane (w : Word) (k : Nat) : Byte := w.extractLsb' (8 * k) 8

/-- The word whose lanes 0..3 are the given bytes (20_memory R76). -/
def ofLanes (b0 b1 b2 b3 : Byte) : Word := b3 ++ b2 ++ b1 ++ b0

/-- The four bytes of a word, lane 0 first. -/
def wordBytes (w : Word) : List Byte := [lane w 0, lane w 1, lane w 2, lane w 3]

/-- Decode the command word at the head of a byte list and give the rest of the list back. -/
def decodeBytes : List Byte → Except DecodeError (Instr × List Byte)
  | b0 :: b1 :: b2 :: b3 :: rest =>
    match decodeWord (ofLanes b0 b1 b2 b3) with
    | .ok i => .ok (i, rest)
    | .error e => .error e
  | _ => .error .truncated

/-- The `nbits` low bits of a number as a command word, all other bits 0. -/
def tableWord (nbits w : Nat) : Word := BitVec.ofNat 32 (w % 2 ^ nbits)

/-- The command the decoder reads from the word whose `nbits` low bits are `w`'s and whose other bits are 0, laid
out as its four bytes in the window (20_memory R76). -/
def decodeTableWord (nbits w : Nat) : Option Instr :=
  match decodeBytes (wordBytes (tableWord nbits w)) with
  | .ok (i, _) => some i
  | .error _ => none

/-! ### Encoding (the field diagram of 30_encoding R100) -/

/-- A word from its fields, in the order of 30_encoding R100's diagram. -/
def assembleFields (data : Byte) (ai : Bool) (fam port : BitVec 2) (m : Bool) (opc : Byte) : Word :=
  0#8 ++ data ++ 0#2 ++ BitVec.ofBool ai ++ fam ++ port ++ BitVec.ofBool m ++ opc

/-- A word that uses no field but OPC and M. -/
def modeWord (opc : Byte) (m : Bool) : Word := assembleFields 0 false 0 0 m opc

/-- The command word of a command (30_encoding R100, R102, R114). -/
def encode : Instr → Word
  | .cfgout => modeWord 0x01#8 false
  | .wrport port data => assembleFields data false 0 (BitVec.ofNat 2 port) false 0x02#8
  | .setall level => modeWord 0x03#8 level.toBit
  | .setpins => modeWord 0x04#8 false
  | .dump => modeWord 0x05#8 false
  | .regaddr port family mode => assembleFields 0 mode.toBit family.toBits (BitVec.ofNat 2 port) false 0x06#8
  | .move1 mode => modeWord 0x10#8 mode.toBit
  | .move1in8 mode => modeWord 0x11#8 mode.toBit
  | .move1in4 mode => modeWord 0x12#8 mode.toBit
  | .incr1in8 mode => modeWord 0x13#8 mode.toBit
  | .decr1in8 mode => modeWord 0x14#8 mode.toBit
  | .alternate => modeWord 0x15#8 false

end Sys2Proof
end

