-- ==== Sys2Proof/Config.lean ====
section
/-! DEFINITION. Config.lean: the block's parameters (00_scope R10) and the free values the spec leaves to the transport
and the clock (20_memory R75, 70_reset_and_hazards R325). -/

namespace Sys2Proof

/-- MOVE1_HANDOFF (00_scope R10, D17). -/
inductive Handoff where
  | restore
  | none
  deriving DecidableEq, Repr

/-- The configuration of 10_state R34 with the parameter MOVE1_HANDOFF. NDEV is 2 exactly when a second address is
there, so a device count other than 1 and 2 cannot be written down. -/
structure Params where
  addr0   : BitVec 7
  addr1   : Option (BitVec 7)
  handoff : Handoff
  deriving DecidableEq, Repr

/-- A configured device: its index, which is also how the block names its handle (10_state R35), and its bus address. -/
structure Device where
  idx  : Fin 2
  addr : BitVec 7
  deriving DecidableEq, Repr

/-- NDEV (00_scope R10). -/
def Params.ndev (c : Params) : Nat := if c.addr1.isSome then 2 else 1

/-- The configured devices in index order (10_state R34, 40_register_map_and_bus R145). -/
def Params.devices (c : Params) : List Device :=
  ⟨0, c.addr0⟩ :: (match c.addr1 with
    | some a => [⟨1, a⟩]
    | none => [])

/-- The result of a transport call (20_memory R73). -/
inductive CallResult where
  | ok
  | ioError
  | noAck
  deriving DecidableEq, Repr, Inhabited

/-- FREE VALUE (20_memory R75, U1): the result of bus call number `n`, if no listed reply answers it. Log entry 4. -/
opaque Config.freeResult : Nat → CallResult

/-- FREE VALUE (20_memory R75, U2): byte `k` of the data of bus call number `n`, if no listed reply answers it. Log entry 4. -/
opaque Config.freeByte : Nat → Nat → Byte

/-- FREE VALUE (70_reset_and_hazards R325, U5): whether bus call number `n` ever returns, if no listed reply answers it.
Log entry 4. -/
opaque Config.freeReturns : Nat → Bool

/-- FREE VALUE (70_reset_and_hazards R325, U5): whether Sleep number `n` ever returns, if no listed reply answers it.
Log entry 5. -/
opaque Config.freeWakes : Nat → Bool

/-- PARAMETER (20_memory R84, U12): where the host window sits in the host's own address space. The block itself
works with offsets into the window only. Log entry 23. -/
opaque Config.hostBase : Nat

/-- The host's own address of a window offset (20_memory R84). -/
def Config.hostAddress (off : Nat) : Nat := Config.hostBase + off

end Sys2Proof
end

