-- ==== Sys2Proof/Machine/State.lean ====
section
/-! DEFINITION. State.lean: every piece of state 10_state gives the block, the event trace of 20_memory R74, and the
inputs of the agents around the block (00_scope R8), all plain data. -/

namespace Sys2Proof.Machine

/-- The error kinds STATUS.ECODE reports (60_exceptions R260); codes 5 to 7 are never produced. -/
inductive ECode where
  | none
  | invalidArgument
  | transportError
  | deviceNotFound
  | illegalCommand
  deriving DecidableEq, Repr

/-- The STATUS register's fields (10_state R43). Its other bits read 0 and hold nothing. -/
structure Status where
  busy   : Bool
  done   : Bool
  err    : Bool
  outcfg : Bool
  ecode  : ECode
  edev   : Fin 2
  deriving DecidableEq, Repr

/-- PatternState (10_state R32). -/
structure PatternState where
  acc  : Byte
  mode : Mode
  port : Fin 3
  i    : Fin 8
  deriving DecidableEq, Repr

/-- What the sequencer holds while it is `running(c)` (10_state R36). -/
structure Run where
  /-- The latched command word `c` (10_state R36). -/
  cmd    : Word
  /-- The sequence position (10_state R31): how many statements of the command's pseudocode have been performed.
  DEDUCED, log entry 2. -/
  pos    : Nat
  /-- The pseudocode's local `r`: the result of the last call that returned (40_register_map_and_bus R145, R147).
  Log entry 19. -/
  result : CallResult
  /-- The pseudocode's local `data`: the bytes of the last BusRead that returned ok (40_register_map_and_bus R147).
  Log entry 19. -/
  data   : List Byte
  /-- PatternState: held by a running pattern command only (10_state R32, R33). -/
  ps     : Option PatternState
  deriving DecidableEq, Repr

/-- The sequencer's two states (10_state R36). -/
inductive Sequencer where
  | idle
  | running (run : Run)
  deriving DecidableEq, Repr

/-- The events of the trace (20_memory R74). A BusRead that did not return ok carries no data. -/
inductive Event where
  | hostWrite (off : Nat) (v : Word)
  | hostRead (off : Nat) (v : Word)
  | busWrite (dev : Fin 2) (addr : BitVec 7) (bytes : List Byte) (r : CallResult)
  | busRead (dev : Fin 2) (addr : BitVec 7) (n : Nat) (r : CallResult) (data : List Byte)
  | sleep (n : Word)
  deriving DecidableEq, Repr

/-- One statement of the host's program (30_encoding R115, R116). A write or read carries its width in bytes, so that
an access the window does not admit (20_memory R70) can be written down. -/
inductive HostStmt where
  /-- `MemWrite(off, width, v)`; `HW off, v` has width 4. -/
  | write (off width : Nat) (v : Word)
  /-- `MemRead(off, width)`; `HR off` has width 4. -/
  | read (off width : Nat)
  /-- `WAIT`: repeat `HR 0x08` until bit 0 of the value read is 0. -/
  | wait
  deriving DecidableEq, Repr

/-- Who takes the next step (20_memory R88, 70_reset_and_hazards R300). -/
inductive Turn where
  /-- The host performs its next statement. -/
  | host
  /-- The sequencer performs its next statement. -/
  | sequencer
  /-- The environment resets the block and fixes the configuration (10_state R34). -/
  | reset (cfg : Params)
  deriving DecidableEq, Repr

/-- What the transport answers to one call (20_memory R73, R75). -/
inductive Reply where
  /-- The call returns. The data count only for a BusRead that returns ok. -/
  | returns (r : CallResult) (data : List Byte)
  /-- The call never returns (70_reset_and_hazards R325). -/
  | never
  deriving DecidableEq, Repr

/-- What the clock answers to one Sleep (20_memory R73, 70_reset_and_hazards R325). -/
inductive ClockReply where
  | returns
  | never
  deriving DecidableEq, Repr

/-- The machine's state. -/
structure State where
  /-- The sequencer (10_state R36) with the sequence position (R31) and PatternState (R32). -/
  seq     : Sequencer
  /-- CMD (10_state R41). -/
  cmd     : Word
  /-- DELAY (10_state R42). -/
  delay   : Word
  /-- STATUS (10_state R43). -/
  status  : Status
  /-- RESULT[7:0] (10_state R44); RESULT[31:8] read 0. -/
  result  : Byte
  /-- PINLEN[5:0] (10_state R46); PINLEN[31:6] read 0. -/
  pinlen  : BitVec 6
  /-- PINSTR[0..31] (10_state R47). -/
  pinstr  : Vector Byte 32
  /-- DUMP[0..23] (10_state R48). -/
  dump    : Vector Byte 24
  /-- The configuration (10_state R34), which DEVCFG reflects (R45). -/
  cfg     : Params
  /-- The event trace, oldest first (20_memory R74). -/
  trace   : List Event
  /-- The MODEL's own field: whose turns come next (20_memory R88). Log entry 6. -/
  turns   : List Turn
  /-- The MODEL's own field: the rest of the host's program (30_encoding R115). Log entry 7. -/
  host    : List HostStmt
  /-- The MODEL's own field, a FREE VALUE: the transport's next answers (20_memory R75). Log entry 4. -/
  replies : List Reply
  /-- The MODEL's own field, a FREE VALUE: the clock's next answers (70_reset_and_hazards R325). Log entry 5. -/
  clock   : List ClockReply
  /-- The MODEL's own field, a FREE VALUE: the number of the next bus call, which picks the draw that answers it where
  no listed answer does. Log entry 4. -/
  draws   : Nat
  /-- The MODEL's own field, a FREE VALUE: the number of the next Sleep, as `draws`. Log entry 5. -/
  ticks   : Nat
  deriving DecidableEq, Repr

/-- The reasons a step can stop with a fault: none. The block has no traps (60_exceptions, opening); every error of a
command is an error status, and so a next state. -/
inductive Fault where
  deriving DecidableEq, Repr

/-- The reasons a step can refuse. -/
inductive Refusal where
  /-- Raised by `exec` for an instruction that has no meaning yet. Safe. No arm raises it. -/
  | notModelled (mnemonic : String)
  /-- Raised by a host access that is not an aligned 32-bit access inside the window (20_memory R70, D3, U4: "refuse").
  Safe: the spec admits no such access. Log entry 14. -/
  | hostAccess (off width : Nat)
  /-- Raised by a BusRead that returns ok with another number of bytes than it asked for (20_memory R73, D22, U6:
  "refuse"). Safe: outside the admitted transport contract. Log entry 15. -/
  | readLength (wanted got : Nat)
  /-- Raised by a pattern shift by an index outside its range (42_pattern_engine R200, U17: "refuse"). Safe: no run
  reaches it, since every loop has constant bounds. Log entry 16. -/
  | shiftRange (i : Nat)
  /-- Raised by `exec` when the sequencer is idle, so that it has no next statement. Safe: `step` never asks for one.
  Log entry 12. -/
  | notRunning
  /-- Raised by a pattern statement when no PatternState is held. Safe: a latched pattern command always holds one
  (30_encoding R110). Log entry 12. -/
  | noPatternState
  deriving DecidableEq, Repr

/-- STATUS after reset: 0x00000000 (10_state R43, R55). -/
def Status.reset : Status :=
  { busy := false, done := false, err := false, outcfg := false, ecode := .none, edev := 0 }

/-- DESIGN CHOICE (log entry 8): the configuration `State.reset` shows. The spec leaves it to the environment
(10_state R55); these are the values 95_test_vectors starts from where it says nothing else. -/
def configAtReset : Params := { addr0 := 0x22#7, addr1 := none, handoff := .restore }

/-- The machine right after reset (10_state R55): idle, every register 0. The MODEL's own fields are empty or 0
(DESIGN CHOICE, log entries 4 to 7). -/
def State.reset : State :=
  { seq     := .idle
    cmd     := 0#32
    delay   := 0#32
    status  := Status.reset
    result  := 0#8
    pinlen  := 0#6
    pinstr  := Vector.replicate 32 0#8
    dump    := Vector.replicate 24 0#8
    cfg     := configAtReset
    trace   := []
    turns   := []
    host    := []
    replies := []
    clock   := []
    draws   := 0
    ticks   := 0 }

end Sys2Proof.Machine
end

