-- ==== Sys2Proof/Machine/Flags.lean ====
section
/-! DEFINITION. Flags.lean: every change of STATUS (10_state R43) and its 32-bit view. -/

namespace Sys2Proof.Machine

/-- The code number of an error kind (60_exceptions R260). -/
def ECode.toBits : ECode → BitVec 3
  | .none => 0#3
  | .invalidArgument => 1#3
  | .transportError => 2#3
  | .deviceNotFound => 3#3
  | .illegalCommand => 4#3

/-- STATUS as the host reads it (10_state R43): BUSY 0, DONE 1, ERR 2, OUTCFG 3, ECODE 10:8, EDEV 11, the rest 0. -/
def Status.toWord (st : Status) : Word :=
  0#20 ++ BitVec.ofNat 1 st.edev.val ++ st.ecode.toBits ++ 0#4 ++ BitVec.ofBool st.outcfg
    ++ BitVec.ofBool st.err ++ BitVec.ofBool st.done ++ BitVec.ofBool st.busy

/-- What latching any word does to STATUS first (30_encoding R110): DONE, ERR, ECODE and EDEV become 0. -/
def Status.clearForLatch (st : Status) : Status :=
  { st with done := false, err := false, ecode := .none, edev := 0 }

/-- BUSY <- 1: a legal word was latched (30_encoding R110). -/
def Status.started (st : Status) : Status := { st with busy := true }

/-- Completion (30_encoding R112): BUSY <- 0, DONE <- 1. -/
def Status.completed (st : Status) : Status := { st with busy := false, done := true }

/-- Error entry (60_exceptions R262): ERR <- 1, ECODE <- code, EDEV <- dev, DONE <- 0, BUSY <- 0. -/
def Status.errored (code : ECode) (dev : Fin 2) (st : Status) : Status :=
  { st with err := true, ecode := code, edev := dev, done := false, busy := false }

/-- OUTCFG <- 1 (40_register_map_and_bus R150). -/
def Status.configured (st : Status) : Status := { st with outcfg := true }

/-- The error a transport result stands for (60_exceptions R261); ok stands for none. -/
def errorOf : CallResult → Option ECode
  | .ok => none
  | .ioError => some .transportError
  | .noAck => some .deviceNotFound

end Sys2Proof.Machine
end

