-- ==== Sys2Proof/Machine/Operands.lean ====
section
/-! DEFINITION. Operands.lean: the RegisterMap (40_register_map_and_bus R140), the polarity transform
(42_pattern_engine R201), the pin string's bytes (41_port_controller R177), and the byte expressions the commands'
pseudocode writes, with their values. -/

namespace Sys2Proof.Machine

/-! ### RegisterMap (40_register_map_and_bus R140, R141) -/

/-- `base(family, ai)` (40_register_map_and_bus R140). -/
def regBase : Family → AddrMode → Byte
  | .input,    .nonAi => 0x00#8
  | .output,   .nonAi => 0x04#8
  | .polarity, .nonAi => 0x08#8
  | .config,   .nonAi => 0x0C#8
  | .input,    .ai    => 0x80#8
  | .output,   .ai    => 0x84#8
  | .polarity, .ai    => 0x88#8
  | .config,   .ai    => 0x8C#8

/-- `RegMap(port, family, ai)` (40_register_map_and_bus R140); none for a port outside 0, 1, 2, its only failure (R141). -/
def regMap (port : Nat) (family : Family) (mode : AddrMode) : Option Byte :=
  if port < 3 then some (regBase family mode + BitVec.ofNat 8 port) else none

/-! ### Patterns (42_pattern_engine R200 to R202) -/

/-- `T(m, x)` (42_pattern_engine R201). -/
def transform : Mode → Byte → Byte
  | .lighting, x => not8 x
  | .clearing, x => x

/-- `1 - m` (42_pattern_engine R230). -/
def flipMode : Mode → Mode
  | .lighting => .clearing
  | .clearing => .lighting

/-- Which mode a pattern transforms its bytes by: PS.mode, or `m' = 1 - PS.mode` (DECR1IN8, 42_pattern_engine R230). -/
inductive Polarity where
  | asMode
  | flipped
  deriving DecidableEq, Repr

def Polarity.apply : Polarity → Mode → Mode
  | .asMode, m => m
  | .flipped, m => flipMode m

/-! ### The pin string (41_port_controller R176, R177) -/

/-- The characters '0' and '1' as SETPINS accepts them (41_port_controller R176). -/
def isPinChar (b : Byte) : Bool := b == 0x30#8 || b == 0x31#8

/-- One term of R177's sum: `(PINSTR[8g + j] - 0x30) * 2^(7 - j)`, in 8 bits. -/
def pinTerm (pinstr : Vector Byte 32) (g : Fin 3) (j : Fin 8) : Byte :=
  (pinstr[8 * g.val + j.val]'(by omega) - 0x30#8) <<< (7 - j.val)

/-- `PinByte(g)` (41_port_controller R177). -/
def pinByte (pinstr : Vector Byte 32) (g : Fin 3) : Byte :=
  pinTerm pinstr g 0 + pinTerm pinstr g 1 + pinTerm pinstr g 2 + pinTerm pinstr g 3
    + pinTerm pinstr g 4 + pinTerm pinstr g 5 + pinTerm pinstr g 6 + pinTerm pinstr g 7

/-! ### Byte expressions -/

/-- A port in the pseudocode: a number, or PS.port (42_pattern_engine R210). -/
inductive PortExpr where
  | lit (p : Nat)
  | current
  deriving DecidableEq, Repr

/-- A byte in the pseudocode of 40_register_map_and_bus, 41_port_controller and 42_pattern_engine. -/
inductive ByteExpr where
  /-- A byte of the command word or of the rule itself. -/
  | lit (b : Byte)
  /-- `RegMap(p, family, ai)` (40_register_map_and_bus R140). -/
  | regAddr (p : PortExpr) (family : Family) (mode : AddrMode)
  /-- `PinByte(g)` (41_port_controller R177). -/
  | pin (g : Fin 3)
  /-- The resting level `T(m, 0x00)` (42_pattern_engine R202). -/
  | rest (pol : Polarity)
  /-- `T(m, 0x01 << PS.i)` (42_pattern_engine R210, R215). -/
  | walk (pol : Polarity)
  /-- `T(m, 0x11 << PS.i)` (42_pattern_engine R220). -/
  | pair (pol : Polarity)
  /-- `T(m, PS.acc)` (42_pattern_engine R225, R230). -/
  | fill (pol : Polarity)
  deriving DecidableEq, Repr

/-- Why an expression has no value: it raises an error (40_register_map_and_bus R141), or the model refuses it. -/
inductive Stop where
  | raise (code : ECode)
  | refuse (r : Refusal)
  deriving DecidableEq, Repr

/-- A value read from PatternState, which a running pattern command holds (log entry 12). -/
def withPattern (ps : Option PatternState) (f : PatternState → Except Stop α) : Except Stop α :=
  match ps with
  | some p => f p
  | none => .error (.refuse .noPatternState)

def PortExpr.eval (ps : Option PatternState) : PortExpr → Except Stop Nat
  | .lit p => .ok p
  | .current => withPattern ps fun p => .ok p.port.val

/-- RegMap's value, or its InvalidArgument (40_register_map_and_bus R141). -/
def regMapValue (port : Nat) (family : Family) (mode : AddrMode) : Except Stop Byte :=
  match regMap port family mode with
  | some a => .ok a
  | none => .error (.raise .invalidArgument)

/-- `0x11 << i`, defined for i in 0..3 only (42_pattern_engine R200, R220, U17). -/
def pairShift (i : Nat) : Except Stop Byte :=
  if i < 4 then .ok (0x11#8 <<< i) else .error (.refuse (.shiftRange i))

/-- The value of a byte expression, taken when its statement is performed. -/
def ByteExpr.eval (pinstr : Vector Byte 32) (ps : Option PatternState) : ByteExpr → Except Stop Byte
  | .lit b => .ok b
  | .regAddr p family mode =>
    match p.eval ps with
    | .ok port => regMapValue port family mode
    | .error e => .error e
  | .pin g => .ok (pinByte pinstr g)
  | .rest pol => withPattern ps fun p => .ok (transform (pol.apply p.mode) 0x00#8)
  | .walk pol => withPattern ps fun p => .ok (transform (pol.apply p.mode) (0x01#8 <<< p.i.val))
  | .pair pol => withPattern ps fun p =>
    match pairShift p.i.val with
    | .ok b => .ok (transform (pol.apply p.mode) b)
    | .error e => .error e
  | .fill pol => withPattern ps fun p => .ok (transform (pol.apply p.mode) p.acc)

/-- The values of a payload's bytes, in order. -/
def evalBytes (pinstr : Vector Byte 32) (ps : Option PatternState) : List ByteExpr → Except Stop (List Byte)
  | [] => .ok []
  | e :: es =>
    match e.eval pinstr ps with
    | .error x => .error x
    | .ok b =>
      match evalBytes pinstr ps es with
      | .error x => .error x
      | .ok bs => .ok (b :: bs)

end Sys2Proof.Machine
end

