-- ==== Sys2Proof/Machine/Ops.lean ====
section
/-! DEFINITION. Ops.lean: the operations the commands and the host access share. Error entry (60_exceptions R262),
completion (30_encoding R112), latching (30_encoding R110), the external calls (20_memory R73), one statement of a
command's pseudocode (30_encoding R111), and block reset (70_reset_and_hazards R300). -/

namespace Sys2Proof.Machine

/-! ### The end of a command -/

/-- ERROR ENTRY, `raise Error(code, dev)` (60_exceptions R262), one step: STATUS as given there, the sequencer idle,
PatternState and the position discarded, no call, no other register changed. There is no return from an error
(60_exceptions R265): ERR, ECODE and EDEV stay until the next latched command, whose latch clears them. -/
def State.raiseError (code : ECode) (dev : Fin 2) (s : State) : State :=
  { s with status := s.status.errored code dev, seq := .idle }

/-- COMPLETION (30_encoding R112), one step: BUSY <- 0, DONE <- 1, the sequencer idle, PatternState discarded. -/
def State.complete (s : State) : State :=
  { s with status := s.status.completed, seq := .idle }

/-! ### The start of a command -/

/-- Whether OPC is a pattern opcode, 0x10..0x15 (30_encoding R110). -/
def isPatternWord (w : Word) : Bool := decide (0x10 ≤ (fieldOpc w).toNat) && decide ((fieldOpc w).toNat ≤ 0x15)

/-- PatternState at latch (30_encoding R110, 10_state R32): acc 0x00, mode `w[8]`, port 0, i 0; none for other commands. -/
def initialPattern (w : Word) : Option PatternState :=
  if isPatternWord w then some { acc := 0x00#8, mode := Mode.ofBit (fieldM w), port := 0, i := 0 } else none

/-- What the sequencer holds right after `w` was latched (30_encoding R110). -/
def Run.start (w : Word) : Run :=
  { cmd := w, pos := 0, result := .ok, data := [], ps := initialPattern w }

/-- LATCHING (30_encoding R110), one step. Callers check that BUSY is 0 (10_state R50). -/
def State.latch (w : Word) (s : State) : State :=
  let cleared : State := { s with cmd := w, status := s.status.clearForLatch }
  match decodeWord w with
  | .error _ => cleared.raiseError .illegalCommand 0
  | .ok _ => { cleared with status := cleared.status.started, seq := .running (Run.start w) }

/-! ### Inside a command -/

/-- The position moves on to the next statement (10_state R31). -/
def State.advance (run : Run) (s : State) : State :=
  { s with seq := .running { run with pos := run.pos + 1 } }

/-- A call returned: its event is appended (20_memory R74), its result and data are the pseudocode's `r` and `data`,
and the position moves on. -/
def State.callReturned (e : Event) (r : CallResult) (data : List Byte) (run : Run) (s : State) : State :=
  State.advance { run with result := r, data := data } { s with trace := s.trace ++ [e] }

/-- The draw that answers bus call number `k`, which reads `n` bytes, where no listed reply does (20_memory R75). -/
def freeReply (n k : Nat) : Reply :=
  if Config.freeReturns k then .returns (Config.freeResult k) ((List.range n).map (Config.freeByte k)) else .never

/-- The transport's answer to the bus call after the next `k` ones, reading `n` bytes (20_memory R75): a listed reply,
else a free draw. Log entry 4. -/
def State.replyAt (k n : Nat) (s : State) : Reply :=
  match s.replies[k]? with
  | some r => r
  | none => freeReply n (s.draws + k)

/-- The transport's answer to the next bus call. -/
def State.nextReply (n : Nat) (s : State) : Reply := s.replyAt 0 n

/-- The answer just taken is used up. -/
def State.dropReply (s : State) : State :=
  { s with replies := s.replies.tail, draws := s.draws + 1 }

/-- The clock's answer to the Sleep after the next `k` ones (70_reset_and_hazards R325): a listed one, else a free
draw. Log entry 5. -/
def State.clockAt (k : Nat) (s : State) : ClockReply :=
  match s.clock[k]? with
  | some r => r
  | none => if Config.freeWakes (s.ticks + k) then .returns else .never

/-- The clock's answer to the next Sleep. -/
def State.nextClock (s : State) : ClockReply := s.clockAt 0

def State.dropClock (s : State) : State :=
  { s with clock := s.clock.tail, ticks := s.ticks + 1 }

/-- `r <- BusWrite(d, bytes)` (20_memory R73), one step: the call and its return. While it has not returned, the
sequencer waits and nothing changes (60_exceptions R275, 70_reset_and_hazards R325). -/
def State.busWrite (d : Device) (bytes : List Byte) (run : Run) (s : State) : State :=
  match s.nextReply 0 with
  | .never => s
  | .returns r _ => State.callReturned (.busWrite d.idx d.addr bytes r) r [] run s.dropReply

/-- The data of a BusRead count only when it returned ok (20_memory R73). Log entry 18. -/
def readData (r : CallResult) (data : List Byte) : List Byte :=
  if r = .ok then data else []

/-- `(r, data) <- BusRead(d, n)` (20_memory R73), one step, as `State.busWrite`. -/
def State.busRead (d : Device) (n : Nat) (run : Run) (s : State) : State :=
  match s.nextReply n with
  | .never => s
  | .returns r data =>
    State.callReturned (.busRead d.idx d.addr n r (readData r data)) r (readData r data) run s.dropReply

/-- The length of a listed reply to a BusRead of `n` bytes that breaks the contract "data is a list of exactly n bytes"
(20_memory R73, U6); none where the contract holds. A free draw keeps it. -/
def State.brokenRead (n : Nat) (s : State) : Option Nat :=
  match s.replies with
  | .returns .ok data :: _ => if data.length = n then none else some data.length
  | _ => none

/-- `Sleep(DELAY)` (20_memory R73, 42_pattern_engine R203), one step. It has no result and cannot fail. -/
def State.sleep (run : Run) (s : State) : State :=
  match s.nextClock with
  | .never => s
  | .returns => State.advance run { s.dropClock with trace := s.trace ++ [.sleep s.delay] }

/-- A change of PatternState, then the next statement; refused where none is held (log entry 12). -/
def State.updatePattern (f : PatternState → PatternState) (run : Run) (s : State) : Host.Outcome State Fault Refusal :=
  match run.ps with
  | some p => .next (State.advance { run with ps := some (f p) } s)
  | none => .refused .noPatternState

/-- One statement of the commands' pseudocode; loops are unrolled, their bounds being constants (10_state R31).
Log entries 1 and 2. -/
inductive Stmt where
  /-- `if PORT = 3: raise Error(InvalidArgument, 0)` (40_register_map_and_bus R142, 41_port_controller R172). -/
  | checkPort (p : Nat)
  /-- `if PINLEN ≠ 24: raise Error(InvalidArgument, 0)` (41_port_controller R176). -/
  | checkPinLen
  /-- `if PINSTR[k] ≠ 0x30 and PINSTR[k] ≠ 0x31: raise Error(InvalidArgument, 0)` (41_port_controller R176). -/
  | checkPinChar (k : Fin 32)
  /-- `RESULT[7:0] <- e` (40_register_map_and_bus R142). -/
  | setResult (e : ByteExpr)
  /-- `STATUS.OUTCFG <- 1` (40_register_map_and_bus R150). -/
  | setOutcfg
  /-- `r <- BusWrite(d, payload)` (40_register_map_and_bus R145, R147). -/
  | busWrite (d : Device) (payload : List ByteExpr)
  /-- `(r, data) <- BusRead(d, n)` (40_register_map_and_bus R147). -/
  | busRead (d : Device) (n : Nat)
  /-- `Check(r, d)` (60_exceptions R261). -/
  | check (d : Device)
  /-- `DUMP[k] <- data[p]` (41_port_controller R180). -/
  | storeDump (k : Fin 24) (p : Nat)
  /-- `Sleep(DELAY)` (42_pattern_engine R203). -/
  | sleep
  /-- The head of `for PS.port in 0..2`: PS.port takes its next value (42_pattern_engine R210). -/
  | setPort (p : Fin 3)
  /-- The head of `for PS.i in 0..n`: PS.i takes its next value (42_pattern_engine R210). -/
  | setI (i : Fin 8)
  /-- `PS.acc <- PS.acc | (0x01 << PS.i)` (42_pattern_engine R225, R230). -/
  | fillAcc
  deriving DecidableEq, Repr

/-- A statement that writes the values of byte expressions: it goes on with them, raises (40_register_map_and_bus
R141), or is refused. -/
def withValue (v : Except Stop α) (s : State) (go : α → State) : Host.Outcome State Fault Refusal :=
  match v with
  | .ok a => .next (go a)
  | .error (.raise code) => .next (s.raiseError code 0)
  | .error (.refuse r) => .refused r

/-- An argument check (30_encoding R111): it raises InvalidArgument with device 0 (60_exceptions R260), or goes on. The
check and its raise are one step (log entry 26). -/
def State.checkArgument (valid : Bool) (run : Run) (s : State) : State :=
  if valid then s.advance run else s.raiseError .invalidArgument 0

/-- `PS.acc | (0x01 << PS.i)` (42_pattern_engine R225). -/
def PatternState.filled (p : PatternState) : PatternState :=
  { p with acc := p.acc ||| (0x01#8 <<< p.i.val) }

/-- Perform one statement (30_encoding R111). -/
def Stmt.perform (run : Run) (s : State) : Stmt → Host.Outcome State Fault Refusal
  | .checkPort p => .next (s.checkArgument (decide (p < 3)) run)
  | .checkPinLen => .next (s.checkArgument (s.pinlen == 24#6) run)
  | .checkPinChar k => .next (s.checkArgument (isPinChar s.pinstr[k]) run)
  | .setResult e =>
    withValue (e.eval s.pinstr run.ps) s fun b => State.advance run { s with result := b }
  | .setOutcfg => .next (State.advance run { s with status := s.status.configured })
  | .busWrite d payload =>
    withValue (evalBytes s.pinstr run.ps payload) s fun bytes => s.busWrite d bytes run
  | .busRead d n =>
    match s.brokenRead n with
    | some got => .refused (.readLength n got)
    | none => .next (s.busRead d n run)
  | .check d =>
    match errorOf run.result with
    | some code => .next (s.raiseError code d.idx)
    | none => .next (s.advance run)
  | .storeDump k p =>
    match run.data[p]? with
    | some b => .next (State.advance run { s with dump := s.dump.set k b })
    | none => .refused (.readLength (p + 1) run.data.length)
  | .sleep => .next (s.sleep run)
  | .setPort p => s.updatePattern (fun ps => { ps with port := p }) run
  | .setI i => s.updatePattern (fun ps => { ps with i := i }) run
  | .fillAcc => s.updatePattern PatternState.filled run

/-- Perform the statement at the sequence position of the given pseudocode; at its end, complete (30_encoding R111, R112).
An idle sequencer has no position (log entry 12). -/
def perform (program : List Stmt) (s : State) : Host.Outcome State Fault Refusal :=
  match s.seq with
  | .idle => .refused .notRunning
  | .running run =>
    match program[run.pos]? with
    | some st => st.perform run s
    | none => .next s.complete

/-! ### Block reset -/

/-- An outstanding call that never returns is given up by reset: its answer is discarded (70_reset_and_hazards R300,
R325). Log entry 10. -/
def dropHungReply : List Reply → List Reply
  | .never :: rs => rs
  | rs => rs

def dropHungClock : List ClockReply → List ClockReply
  | .never :: rs => rs
  | rs => rs

/-- BLOCK RESET (70_reset_and_hazards R300, R301): every piece of block state at its value in 10_state R55, with the
configuration the environment sets (R34, R302); no call is made. The trace, the host's program, the schedule and the
listed answers are not block state and go on (log entry 10). -/
def State.blockReset (cfg : Params) (s : State) : State :=
  { State.reset with
    cfg := cfg, trace := s.trace, turns := s.turns, host := s.host,
    replies := dropHungReply s.replies, clock := dropHungClock s.clock,
    draws := s.draws + 1, ticks := s.ticks + 1 }

end Sys2Proof.Machine
end

