-- ==== Sys2Proof/Machine/BusPort.lean ====
section
/-! DEFINITION. BusPort.lean: the BusPort's register write with its fan-out and the register read
(40_register_map_and_bus R145, R147), and the commands REGADDR and CFGOUT (R142, R150). -/

namespace Sys2Proof.Machine

/-- `WriteReg(addr, data)` (40_register_map_and_bus R145): one call a configured device, in index order, each checked
before the next (R146). -/
def writeReg (cfg : Params) (addr : ByteExpr) (data : List ByteExpr) : List Stmt :=
  cfg.devices.flatMap fun d => [.busWrite d (addr :: data), .check d]

/-- `ReadReg(d, addr, n)` (40_register_map_and_bus R147): a pointer write, then a read, each checked. -/
def readReg (d : Device) (addr : ByteExpr) (n : Nat) : List Stmt :=
  [.busWrite d [addr], .check d, .busRead d n, .check d]

/-- `WritePort(p, b)` (41_port_controller R170): a single-port, non-auto-increment write. -/
def writePort (cfg : Params) (p : PortExpr) (b : ByteExpr) : List Stmt :=
  writeReg cfg (.regAddr p .output .nonAi) [b]

/-- `SetAll(v)` (41_port_controller R171): three WritePorts, ports 0, 1, 2. -/
def setAll (cfg : Params) (b : ByteExpr) : List Stmt :=
  writePort cfg (.lit 0) b ++ writePort cfg (.lit 1) b ++ writePort cfg (.lit 2) b

/-- REGADDR's pseudocode (40_register_map_and_bus R142). -/
def regaddrProgram (port : Nat) (family : Family) (mode : AddrMode) : List Stmt :=
  [.checkPort port, .setResult (.regAddr (.lit port) family mode)]

/-- CFGOUT's pseudocode (40_register_map_and_bus R150). -/
def cfgoutProgram (cfg : Params) : List Stmt :=
  writeReg cfg (.regAddr (.lit 0) .config .ai) [.lit 0x00#8, .lit 0x00#8, .lit 0x00#8] ++ [.setOutcfg]

/-- REGADDR (40_register_map_and_bus R142). -/
def execRegaddr (port : Nat) (family : Family) (mode : AddrMode) (s : State) : Host.Outcome State Fault Refusal :=
  perform (regaddrProgram port family mode) s

/-- CFGOUT (40_register_map_and_bus R150). -/
def execCfgout (s : State) : Host.Outcome State Fault Refusal :=
  perform (cfgoutProgram s.cfg) s

end Sys2Proof.Machine
end

