-- ==== Sys2Proof/Machine/PatternEngine.lean ====
section
/-! DEFINITION. PatternEngine.lean: the six patterns (42_pattern_engine R200 to R235). A pattern reads its mode from
PS.mode, which the latch took from the word (30_encoding R110); log entry 21. -/

namespace Sys2Proof.Machine

/-- The values of a loop over PS.i in 0..7 and in 0..3, and of MOVE1's loop over PS.port. -/
def steps8 : List (Fin 8) := [0, 1, 2, 3, 4, 5, 6, 7]

def steps4 : List (Fin 8) := [0, 1, 2, 3]

def ports : List (Fin 3) := [0, 1, 2]

/-- One frame on all three ports: the writes, then one Sleep (42_pattern_engine R203). -/
def frame (cfg : Params) (b : ByteExpr) : List Stmt := setAll cfg b ++ [.sleep]

/-- The shape R215, R220, R225 and R230 share: the resting level, the frames, the resting level again
(42_pattern_engine R202, R203). -/
def framed (cfg : Params) (pol : Polarity) (frames : List Stmt) : List Stmt :=
  setAll cfg (.rest pol) ++ frames ++ setAll cfg (.rest pol)

/-- MOVE1's handoff: `if PS.port < 2 and MOVE1_HANDOFF = restore: WritePort(PS.port, R)` (42_pattern_engine R210, D17).
DESIGN CHOICE, log entry 26: this `if` takes no step and no position of its own. -/
def handoffWrite (cfg : Params) (p : Fin 3) : List Stmt :=
  if p.val < 2 ∧ cfg.handoff = .restore then writePort cfg .current (.rest .asMode) else []

/-- The frames of MOVE1 on one port, then its handoff (42_pattern_engine R210). -/
def move1Port (cfg : Params) (p : Fin 3) : List Stmt :=
  .setPort p
    :: (steps8.flatMap fun i => .setI i :: writePort cfg .current (.walk .asMode) ++ [.sleep])
    ++ handoffWrite cfg p

/-- MOVE1's pseudocode (42_pattern_engine R210). -/
def move1Program (cfg : Params) : List Stmt :=
  framed cfg .asMode (ports.flatMap (move1Port cfg))

/-- MOVE1IN8's pseudocode (42_pattern_engine R215). -/
def move1in8Program (cfg : Params) : List Stmt :=
  framed cfg .asMode (steps8.flatMap fun i => .setI i :: frame cfg (.walk .asMode))

/-- MOVE1IN4's pseudocode (42_pattern_engine R220). -/
def move1in4Program (cfg : Params) : List Stmt :=
  framed cfg .asMode (steps4.flatMap fun i => .setI i :: frame cfg (.pair .asMode))

/-- The accumulating fill that R225 and R230 share, with the polarity they differ in. -/
def fillProgram (cfg : Params) (pol : Polarity) : List Stmt :=
  framed cfg pol (steps8.flatMap fun i => .setI i :: .fillAcc :: frame cfg (.fill pol))

/-- INCR1IN8's pseudocode (42_pattern_engine R225). -/
def incr1in8Program (cfg : Params) : List Stmt := fillProgram cfg .asMode

/-- DECR1IN8's pseudocode, the literal behaviour (42_pattern_engine R230, 90_conflicts C4): `m' = 1 - PS.mode`. -/
def decr1in8Program (cfg : Params) : List Stmt := fillProgram cfg .flipped

/-- ALTERNATE's pseudocode (42_pattern_engine R235): no mode, no resting writes. -/
def alternateProgram (cfg : Params) : List Stmt :=
  frame cfg (.lit 0xAA#8) ++ frame cfg (.lit 0x55#8)

/-- MOVE1 (42_pattern_engine R210). -/
def execMove1 (s : State) : Host.Outcome State Fault Refusal := perform (move1Program s.cfg) s

/-- MOVE1IN8 (42_pattern_engine R215). -/
def execMove1in8 (s : State) : Host.Outcome State Fault Refusal := perform (move1in8Program s.cfg) s

/-- MOVE1IN4 (42_pattern_engine R220). -/
def execMove1in4 (s : State) : Host.Outcome State Fault Refusal := perform (move1in4Program s.cfg) s

/-- INCR1IN8 (42_pattern_engine R225). -/
def execIncr1in8 (s : State) : Host.Outcome State Fault Refusal := perform (incr1in8Program s.cfg) s

/-- DECR1IN8 (42_pattern_engine R230). -/
def execDecr1in8 (s : State) : Host.Outcome State Fault Refusal := perform (decr1in8Program s.cfg) s

/-- ALTERNATE (42_pattern_engine R235). -/
def execAlternate (s : State) : Host.Outcome State Fault Refusal := perform (alternateProgram s.cfg) s

end Sys2Proof.Machine
end

