-- ==== Sys2Proof/Machine/PortController.lean ====
section
/-! DEFINITION. PortController.lean: the commands WRPORT, SETALL, SETPINS and DUMP (41_port_controller R172 to R180). -/

namespace Sys2Proof.Machine

/-- WRPORT's pseudocode (41_port_controller R172). -/
def wrportProgram (cfg : Params) (port : Nat) (data : Byte) : List Stmt :=
  .checkPort port :: writePort cfg (.lit port) (.lit data)

/-- SETALL's byte (41_port_controller R174): 0xFF on, 0x00 off. -/
def levelByte : Level → Byte
  | .on => 0xFF#8
  | .off => 0x00#8

/-- SETALL's pseudocode (41_port_controller R174). -/
def setallProgram (cfg : Params) (level : Level) : List Stmt :=
  setAll cfg (.lit (levelByte level))

/-- The 24 characters SETPINS checks and reads: PINSTR[24..31] is never read (41_port_controller R176). -/
def pinIndexes : List (Fin 32) :=
  [0, 1, 2, 3, 4, 5, 6, 7, 8, 9, 10, 11, 12, 13, 14, 15, 16, 17, 18, 19, 20, 21, 22, 23]

/-- SETPINS's pseudocode (41_port_controller R176): the length check, the character checks, one burst. -/
def setpinsProgram (cfg : Params) : List Stmt :=
  .checkPinLen :: pinIndexes.map .checkPinChar
    ++ writeReg cfg (.regAddr (.lit 0) .output .ai) [.pin 0, .pin 1, .pin 2]

/-- The register groups in DUMP's order: input, output, polarity, config (41_port_controller R180), with `g`. -/
def dumpGroups : List (Fin 4 × Family) := [(0, .input), (1, .output), (2, .polarity), (3, .config)]

/-- The entry `12*d + 3*g + p` of DUMP (10_state R48). -/
def dumpIndex (d : Fin 2) (g : Fin 4) (p : Fin 3) : Fin 24 :=
  ⟨12 * d.val + 3 * g.val + p.val, by omega⟩

/-- The statements of one group of one device (41_port_controller R180). -/
def dumpGroup (d : Device) (g : Fin 4) (family : Family) : List Stmt :=
  readReg d (.regAddr (.lit 0) family .ai) 3
    ++ [.storeDump (dumpIndex d.idx g 0) 0, .storeDump (dumpIndex d.idx g 1) 1, .storeDump (dumpIndex d.idx g 2) 2]

/-- DUMP's pseudocode (41_port_controller R180). -/
def dumpProgram (cfg : Params) : List Stmt :=
  cfg.devices.flatMap fun d => dumpGroups.flatMap fun g => dumpGroup d g.1 g.2

/-- WRPORT (41_port_controller R172). -/
def execWrport (port : Nat) (data : Byte) (s : State) : Host.Outcome State Fault Refusal :=
  perform (wrportProgram s.cfg port data) s

/-- SETALL (41_port_controller R174). -/
def execSetall (level : Level) (s : State) : Host.Outcome State Fault Refusal :=
  perform (setallProgram s.cfg level) s

/-- SETPINS (41_port_controller R176). -/
def execSetpins (s : State) : Host.Outcome State Fault Refusal :=
  perform (setpinsProgram s.cfg) s

/-- DUMP (41_port_controller R180). -/
def execDump (s : State) : Host.Outcome State Fault Refusal :=
  perform (dumpProgram s.cfg) s

end Sys2Proof.Machine
end

