-- ==== Sys2Proof/Machine/Dispatch.lean ====
section
/-! DEFINITION. Dispatch.lean: one arm per command (30_encoding R102). `exec i s` performs the next statement of the
running command `i` (30_encoding R111). -/

namespace Sys2Proof.Machine

def exec (i : Instr) (s : State) : Host.Outcome State Fault Refusal :=
  match i with
  | .cfgout => Sys2Proof.Machine.execCfgout s
  | .wrport port data => Sys2Proof.Machine.execWrport port data s
  | .setall level => Sys2Proof.Machine.execSetall level s
  | .setpins => Sys2Proof.Machine.execSetpins s
  | .dump => Sys2Proof.Machine.execDump s
  | .regaddr port family mode => Sys2Proof.Machine.execRegaddr port family mode s
  | .move1 _ => Sys2Proof.Machine.execMove1 s
  | .move1in8 _ => Sys2Proof.Machine.execMove1in8 s
  | .move1in4 _ => Sys2Proof.Machine.execMove1in4 s
  | .incr1in8 _ => Sys2Proof.Machine.execIncr1in8 s
  | .decr1in8 _ => Sys2Proof.Machine.execDecr1in8 s
  | .alternate => Sys2Proof.Machine.execAlternate s

end Sys2Proof.Machine
end

