-- ==== Sys2Proof/Machine/HostPort.lean ====
section
/-! DEFINITION. HostPort.lean: the host register window (10_state R40 to R50, 20_memory R70, R76) and the host's turn
(30_encoding R115, R116). -/

namespace Sys2Proof.Machine

/-! ### Reading the window -/

/-- DEVCFG (10_state R45): NDEV [1:0], ADDR[0] [14:8], ADDR[1] [22:16] when NDEV = 2 else 0, the rest 0. -/
def devcfgWord (cfg : Params) : Word :=
  0#9 ++ (match cfg.addr1 with
    | some a => a
    | none => 0#7) ++ 0#1 ++ cfg.addr0 ++ 0#6 ++ BitVec.ofNat 2 cfg.ndev

/-- The word of PINSTR at word index `j` (10_state R47, 20_memory R76). -/
def pinstrWord (v : Vector Byte 32) (j : Fin 8) : Word :=
  ofLanes v[4 * j.val] v[4 * j.val + 1] v[4 * j.val + 2] v[4 * j.val + 3]

/-- The word of DUMP at word index `j` (10_state R48, 20_memory R76). -/
def dumpWord (v : Vector Byte 24) (j : Fin 6) : Word :=
  ofLanes v[4 * j.val] v[4 * j.val + 1] v[4 * j.val + 2] v[4 * j.val + 3]

/-- The register at a word offset of the window (10_state R40); reserved offsets read 0 (R49). No read has a side
effect (20_memory R83). -/
def State.readWindow (off : Nat) (s : State) : Word :=
  if off = 0x00 then s.cmd
  else if off = 0x04 then s.delay
  else if off = 0x08 then s.status.toWord
  else if off = 0x0C then s.result.setWidth 32
  else if off = 0x10 then devcfgWord s.cfg
  else if off = 0x14 then s.pinlen.setWidth 32
  else if h : 0x20 ≤ off ∧ off < 0x40 then pinstrWord s.pinstr ⟨(off - 0x20) / 4, by omega⟩
  else if h : 0x40 ≤ off ∧ off < 0x58 then dumpWord s.dump ⟨(off - 0x40) / 4, by omega⟩
  else 0#32

/-- The byte at a window byte offset (20_memory R76). -/
def State.windowByte (a : Nat) (s : State) : Byte :=
  lane (s.readWindow (4 * (a / 4))) (a % 4)

/-! ### Writing the window -/

/-- PINSTR with the word at word index `j` written (10_state R47, 20_memory R76). -/
def setPinstrWord (v : Vector Byte 32) (j : Fin 8) (w : Word) : Vector Byte 32 :=
  (((v.set (4 * j.val) (lane w 0)).set (4 * j.val + 1) (lane w 1)).set (4 * j.val + 2) (lane w 2)).set
    (4 * j.val + 3) (lane w 3)

/-- A host write of a register of the window. While BUSY is 1 the block ignores it (10_state R50). CMD latches
(R41); DELAY, PINLEN and PINSTR are written (R42, R46, R47); read-only and reserved offsets ignore it
(R43 to R45, R48, R49). -/
def State.writeWindow (off : Nat) (w : Word) (s : State) : State :=
  if s.status.busy then s
  else if off = 0x00 then s.latch w
  else if off = 0x04 then { s with delay := w }
  else if off = 0x14 then { s with pinlen := w.extractLsb' 0 6 }
  else if h : 0x20 ≤ off ∧ off < 0x40 then
    { s with pinstr := setPinstrWord s.pinstr ⟨(off - 0x20) / 4, by omega⟩ w }
  else s

/-! ### Host accesses -/

/-- The accesses the window admits: 32 bits, at a multiple of 4 (20_memory R70, R80), inside its 256 bytes (log entry
14). -/
def admitted (off width : Nat) : Bool :=
  decide (width = 4) && decide (off % 4 = 0) && decide (off < 256)

/-- An event is appended to the trace (20_memory R74). -/
def State.log (e : Event) (s : State) : State := { s with trace := s.trace ++ [e] }

/-- `MemWrite(off, width, v)`: one indivisible step (20_memory R70, R88). Every admitted write is an event, an ignored
one too (log entry 20). -/
def State.memWrite (off width : Nat) (v : Word) (s : State) : Host.Outcome State Fault Refusal :=
  if admitted off width then .next ((s.log (.hostWrite off v)).writeWindow off v)
  else .refused (.hostAccess off width)

/-- `MemRead(off, width)`: one indivisible step, whose event holds the value read (20_memory R70, R74, R88). -/
def State.memRead (off width : Nat) (s : State) : Host.Outcome State Fault Refusal :=
  if admitted off width then .next (s.log (.hostRead off (s.readWindow off)))
  else .refused (.hostAccess off width)

/-- The host performs its next statement. WAIT polls STATUS once a turn and ends when BUSY was read as 0
(30_encoding R116). A host with no statement left does nothing. -/
def State.hostTurn (s : State) : Host.Outcome State Fault Refusal :=
  match s.host with
  | [] => .next s
  | .write off width v :: rest => State.memWrite off width v { s with host := rest }
  | .read off width :: rest => State.memRead off width { s with host := rest }
  | .wait :: rest =>
    State.memRead 0x08 4 (if (s.readWindow 0x08).getLsbD 0 then s else { s with host := rest })

end Sys2Proof.Machine
end

