-- ==== Sys2Proof/Machine/Sequencer.lean ====
section
/-! DEFINITION. Sequencer.lean: the sequencer's turn, whose turn it is (20_memory R88), and a command word placed as
latched. -/

namespace Sys2Proof.Machine

/-- The command word the sequencer runs (10_state R36). -/
def State.runningWord (s : State) : Option Word :=
  match s.seq with
  | .idle => none
  | .running run => some run.cmd

/-- The sequencer's turn (30_encoding R111): it performs the next statement of the command its word spells. Idle, it
does nothing. A word that spells no command never runs, since the latch rejects it (30_encoding R104, R110); were one
running, it would be rejected in the same way (log entry 13). -/
def State.sequencerTurn (s : State) : Host.Outcome State Fault Refusal :=
  match s.seq with
  | .idle => .next s
  | .running run =>
    match decodeWord run.cmd with
    | .ok i => exec i s
    | .error _ => .next (s.raiseError .illegalCommand 0)

/-- The step when no turn is listed (log entry 6): a running sequencer moves, else the host. -/
def State.defaultTurn (s : State) : Host.Outcome State Fault Refusal :=
  match s.seq with
  | .idle => s.hostTurn
  | .running _ => s.sequencerTurn

/-- One listed turn (20_memory R88, 70_reset_and_hazards R300). -/
def Turn.take (s : State) : Turn → Host.Outcome State Fault Refusal
  | .host => s.hostTurn
  | .sequencer => s.sequencerTurn
  | .reset cfg => .next (s.blockReset cfg)

/-- The next turn is the sequencer's: where turns are listed, one of its own is put first. -/
def sequencerFirst : List Turn → List Turn
  | [] => []
  | t :: ts => .sequencer :: t :: ts

/-- A word as the CMD write of 30_encoding R110 leaves it, and the next turn the sequencer's (log entry 11). -/
def State.placeWord (w : Word) (s : State) : State :=
  { s.latch w with turns := sequencerFirst s.turns }

end Sys2Proof.Machine
end

