-- ==== Sys2Proof/Machine/Step.lean ====
section
/-! DEFINITION. Step.lean: one step of the whole machine, one turn of one agent (20_memory R88). -/

namespace Sys2Proof.Machine

/-- One step: the first listed turn is taken and is no longer listed; where none is listed, `State.defaultTurn`. -/
def step (s : State) : Host.Outcome State Fault Refusal :=
  match s.turns with
  | [] => s.defaultTurn
  | t :: ts => t.take { s with turns := ts }

/-- The `nbits` low bits of `w` as a command word, latched (30_encoding R110), so that the next step performs the
command's first statement. Log entry 11. -/
def State.withFetchWord (s : State) (nbits w : Nat) : State :=
  s.placeWord (tableWord nbits w)

end Sys2Proof.Machine
end

