-- ==== Sys2Proof/Machine/Assembler.lean ====
section
/-! DEFINITION. Assembler.lean: the assembler of 30_encoding R114 to R116: lines of text, what each line stands for,
and the host statements it expands to. The result is a host program for `State.host`. -/

namespace Sys2Proof.Machine

/-! ### What a line says -/

/-- A command line (30_encoding R114): a command, or `.word w`. -/
inductive CommandLine where
  | command (i : Instr)
  | word (w : Nat)
  deriving DecidableEq, Repr

/-- A line of a host program (30_encoding R115, R116). -/
inductive Line where
  | command (c : CommandLine)
  | hw (off v : Nat)
  | hr (off : Nat)
  | wait
  | delay (n : Nat)
  | pins (chars : List Nat)
  | run (c : CommandLine)
  | blank
  deriving DecidableEq, Repr

/-! ### What a line stands for -/

/-- A number that a 32-bit field takes; any other is an assembly error (30_encoding R114). -/
def word32 (n : Nat) : Option Word := if n < 2 ^ 32 then some (BitVec.ofNat 32 n) else none

/-- The word of a command line (30_encoding R114). -/
def CommandLine.toWord : CommandLine → Option Word
  | .command i => if i.wellFormed then some (encode i) else none
  | .word w => word32 w

/-- A command line stands for the host write `HW 0x00, word` (30_encoding R114). -/
def CommandLine.expand (c : CommandLine) : Option (List HostStmt) :=
  match c.toWord with
  | some w => some [.write 0x00 4 w]
  | none => none

/-- Lane `j` of the word at index `k` of PINS: the code of character `4k+j`, or 0x00 past the end (30_encoding R116).
DESIGN CHOICE, log entry 27: what the code is. -/
def pinsLane (chars : List Nat) (k j : Nat) : Byte := BitVec.ofNat 8 (chars.getD (4 * k + j) 0)

/-- `v_k` of PINS (30_encoding R116). -/
def pinsWord (chars : List Nat) (k : Nat) : Word :=
  ofLanes (pinsLane chars k 0) (pinsLane chars k 1) (pinsLane chars k 2) (pinsLane chars k 3)

/-- `PINS "s"` (30_encoding R116): the words k in 0..ceil(L/4)-1, then PINLEN; a string longer than 32 is
an assembly error, and so is a character code over 255 (DESIGN CHOICE, log entry 27). -/
def expandPins (chars : List Nat) : Option (List HostStmt) :=
  if chars.length ≤ 32 ∧ chars.all (fun c => decide (c < 256)) then
    some ((List.range ((chars.length + 3) / 4)).map (fun k => .write (0x20 + 4 * k) 4 (pinsWord chars k))
      ++ [.write 0x14 4 (BitVec.ofNat 32 chars.length)])
  else none

/-- The host statements of a line (30_encoding R115, R116). -/
def Line.expand : Line → Option (List HostStmt)
  | .command c => c.expand
  | .hw off v =>
    match word32 v with
    | some w => some [.write off 4 w]
    | none => none
  | .hr off => some [.read off 4]
  | .wait => some [.wait]
  | .delay n =>
    match word32 n with
    | some w => some [.write 0x04 4 w]
    | none => none
  | .pins chars => expandPins chars
  | .run c =>
    match c.expand with
    | some ss => some (ss ++ [.wait])
    | none => none
  | .blank => some []

/-! ### Reading a line of text -/

/-- What a line is made of: words, commas and quoted strings. -/
inductive Token where
  | word (s : List Char)
  | comma
  | quoted (s : List Char)
  deriving DecidableEq, Repr

/-- A word read so far, if it is not empty, as a token before the rest. -/
def endWord (acc : List Char) (rest : List Token) : List Token :=
  if acc.isEmpty then rest else .word acc :: rest

/-- The tokens of a line, given the word read so far, and whether inside quotes. A semicolon outside quotes starts a
comment (log entry 22). A quote that is never closed gives no tokens. -/
def tokensFrom (inQuotes : Bool) (acc : List Char) : List Char → Option (List Token)
  | [] => if inQuotes then none else some (endWord acc [])
  | c :: cs =>
    if inQuotes then
      if c.toNat = 34 then
        match tokensFrom false [] cs with
        | some ts => some (.quoted acc :: ts)
        | none => none
      else tokensFrom true (acc ++ [c]) cs
    else if c.toNat = 34 then
      match tokensFrom true [] cs with
      | some ts => some (endWord acc ts)
      | none => none
    else if c = ';' then some (endWord acc [])
    else if c = ' ' ∨ c.toNat = 9 then
      match tokensFrom false [] cs with
      | some ts => some (endWord acc ts)
      | none => none
    else if c = ',' then
      match tokensFrom false [] cs with
      | some ts => some (endWord acc (.comma :: ts))
      | none => none
    else tokensFrom false (acc ++ [c]) cs

/-- A digit's value in a base. -/
def digitValue (base : Nat) (c : Char) : Option Nat :=
  let n := c.toUpper.toNat
  let v := if 48 ≤ n ∧ n ≤ 57 then n - 48 else if 65 ≤ n ∧ n ≤ 70 then n - 55 else base
  if v < base then some v else none

def digitsFrom (base acc : Nat) : List Char → Option Nat
  | [] => some acc
  | c :: cs =>
    match digitValue base c with
    | some v => digitsFrom base (acc * base + v) cs
    | none => none

/-- "A number is decimal, `0x`-hex or `0b`-binary" (30_encoding R114). -/
def readNumber : List Char → Option Nat
  | [] => none
  | [c] => digitsFrom 10 0 [c]
  | c :: d :: ds =>
    if c = '0' ∧ (d = 'x' ∨ d = 'X') then (if ds.isEmpty then none else digitsFrom 16 0 ds)
    else if c = '0' ∧ (d = 'b' ∨ d = 'B') then (if ds.isEmpty then none else digitsFrom 2 0 ds)
    else digitsFrom 10 0 (c :: d :: ds)

/-- "Keywords are case-insensitive" (30_encoding R114): the first entry whose keyword the word spells. -/
def keyword (table : List (String × α)) (w : List Char) : Option α :=
  match table with
  | [] => none
  | (k, a) :: rest => if w.map Char.toUpper = k.toList then some a else keyword rest w

/-- The commands without operands (30_encoding R114). -/
def plainCommands : List (String × Instr) :=
  [("CFGOUT", .cfgout), ("SETPINS", .setpins), ("DUMP", .dump), ("ALTERNATE", .alternate)]

/-- The patterns with a mode (30_encoding R114). -/
def modeCommands : List (String × (Mode → Instr)) :=
  [("MOVE1", .move1), ("MOVE1IN8", .move1in8), ("MOVE1IN4", .move1in4), ("INCR1IN8", .incr1in8), ("DECR1IN8", .decr1in8)]

def modeWords : List (String × Mode) := [("C", .clearing), ("L", .lighting)]

def levelWords : List (String × Level) := [("OFF", .off), ("ON", .on)]

def familyWords : List (String × Family) :=
  [("INPUT", .input), ("OUTPUT", .output), ("POLARITY", .polarity), ("CONFIG", .config)]

def addrModeWords : List (String × AddrMode) := [("NAI", .nonAi), ("AI", .ai)]

/-- `WRPORT p, b` (30_encoding R114): "a byte is 0..255"; the port is checked when the word is made. -/
def readWrport (p b : List Char) : Option Instr :=
  match readNumber p, readNumber b with
  | some port, some byte => if byte < 256 then some (.wrport port (BitVec.ofNat 8 byte)) else none
  | _, _ => none

/-- `REGADDR p, fam, ai` (30_encoding R114). -/
def readRegaddr (p f a : List Char) : Option Instr :=
  match readNumber p, keyword familyWords f, keyword addrModeWords a with
  | some port, some family, some mode => some (.regaddr port family mode)
  | _, _, _ => none

/-- A keyword and one operand: `SETALL ON`, a pattern with its mode, or `.word w` (30_encoding R114). -/
def readOneOperand (k a : List Char) : Option CommandLine :=
  match keyword modeCommands k with
  | some f => (keyword modeWords a).map fun m => .command (f m)
  | none =>
    match keyword [("SETALL", false), (".WORD", true)] k with
    | some true => (readNumber a).map .word
    | some false => (keyword levelWords a).map fun l => .command (.setall l)
    | none => none

/-- A command line (30_encoding R114). -/
def readCommand : List Token → Option CommandLine
  | [.word k] => (keyword plainCommands k).map .command
  | [.word k, .word a] => readOneOperand k a
  | [.word k, .word a, .comma, .word b] =>
    (keyword [("WRPORT", ())] k).bind fun _ => (readWrport a b).map .command
  | [.word k, .word a, .comma, .word b, .comma, .word c] =>
    (keyword [("REGADDR", ())] k).bind fun _ => (readRegaddr a b c).map .command
  | _ => none

/-- The statements and pseudo-instructions of 30_encoding R115 and R116, by keyword. -/
inductive HostWord where
  | hw | hr | wait | delay | pins | run
  deriving DecidableEq, Repr

def hostWords : List (String × HostWord) :=
  [("HW", .hw), ("HR", .hr), ("WAIT", .wait), ("DELAY", .delay), ("PINS", .pins), ("RUN", .run)]

/-- The operands of a host statement or pseudo-instruction (30_encoding R115, R116). The code of a character of PINS is
its Unicode code point (DESIGN CHOICE, log entry 27). -/
def readHost : HostWord → List Token → Option Line
  | .hw, [.word off, .comma, .word v] =>
    match readNumber off, readNumber v with
    | some o, some n => some (.hw o n)
    | _, _ => none
  | .hr, [.word off] => (readNumber off).map .hr
  | .wait, [] => some .wait
  | .delay, [.word n] => (readNumber n).map .delay
  | .pins, [.quoted s] => some (.pins (s.map Char.toNat))
  | .run, ts => (readCommand ts).map .run
  | _, _ => none

/-- A line from its tokens. -/
def readTokens : List Token → Option Line
  | [] => some .blank
  | .word k :: ts =>
    match keyword hostWords k with
    | some h => readHost h ts
    | none => (readCommand (.word k :: ts)).map .command
  | _ => none

/-- A line of text; none is an assembly error. -/
def readLine (text : List Char) : Option Line := (tokensFrom false [] text).bind readTokens

/-- A host program (30_encoding R115): one line a list entry; none where any line is an assembly error. -/
def assemble : List String → Option (List HostStmt)
  | [] => some []
  | text :: rest =>
    match (readLine text.toList).bind Line.expand, assemble rest with
    | some ss, some ts => some (ss ++ ts)
    | _, _ => none

end Sys2Proof.Machine
end

