-- ==== Sys2Proof/Safety.lean ====
section
/-! DEFINITION. Safety.lean: the terms the claims use. The invariant of the machine, a command's run from its latch to
its end, and the calls the spec gives each command, written out from the spec's own byte tables and not from the
programs of Machine/. -/

namespace Sys2Proof.Machine

/-! ### Outcomes and runs -/

/-- The next state, where the outcome is one. -/
def nextOf : Host.Outcome State Fault Refusal → Option State
  | .next s => some s
  | .fault _ => none
  | .refused _ => none

/-- `n` statements of the running command `i`, one `exec` each (30_encoding R111). -/
def execTimes (i : Instr) : Nat → State → Host.Outcome State Fault Refusal
  | 0, s => .next s
  | n + 1, s =>
    match exec i s with
    | .next t => execTimes i n t
    | .fault r => .fault r
    | .refused r => .refused r

/-- The sequencer is where the latch of `i`'s word left it (30_encoding R110). -/
def State.atStart (i : Instr) (s : State) : Prop := s.seq = .running (Run.start (encode i))

/-- The next `n` bus calls and the next `n` Sleeps return (70_reset_and_hazards R325): the premise of every claim that
a command ends. -/
def State.callsReturn (n : Nat) (s : State) : Prop :=
  ∀ k, k < n → (∀ bytes, s.replyAt k bytes ≠ .never) ∧ s.clockAt k ≠ .never

/-- The next `n` bus calls return ok (93_implementation_defined U1). -/
def State.busOk (n : Nat) (s : State) : Prop := ∀ k, k < n → ∃ data, s.replyAt k 0 = .returns .ok data

/-- The next `n` Sleeps return (70_reset_and_hazards R325). -/
def State.wakes (n : Nat) (s : State) : Prop := ∀ k, k < n → s.clockAt k = .returns

/-- In a run whose calls alternate between a pointer write and a read of 3 bytes, the listed replies to the reads keep
the contract of 20_memory R73. -/
def State.readsWhole (s : State) : Prop :=
  ∀ k data, s.replies[2 * k + 1]? = some (.returns .ok data) → data.length = 3

/-! ### The pseudocode of a command -/

/-- The statements of a command's rule under a configuration. -/
def program (cfg : Params) : Instr → List Stmt
  | .cfgout => cfgoutProgram cfg
  | .wrport port data => wrportProgram cfg port data
  | .setall level => setallProgram cfg level
  | .setpins => setpinsProgram cfg
  | .dump => dumpProgram cfg
  | .regaddr port family mode => regaddrProgram port family mode
  | .move1 _ => move1Program cfg
  | .move1in8 _ => move1in8Program cfg
  | .move1in4 _ => move1in4Program cfg
  | .incr1in8 _ => incr1in8Program cfg
  | .decr1in8 _ => decr1in8Program cfg
  | .alternate => alternateProgram cfg

/-- The mnemonic of a command (30_encoding R102). -/
def mnemonic : Instr → String
  | .cfgout => "CFGOUT"
  | .wrport _ _ => "WRPORT"
  | .setall _ => "SETALL"
  | .setpins => "SETPINS"
  | .dump => "DUMP"
  | .regaddr _ _ _ => "REGADDR"
  | .move1 _ => "MOVE1"
  | .move1in8 _ => "MOVE1IN8"
  | .move1in4 _ => "MOVE1IN4"
  | .incr1in8 _ => "INCR1IN8"
  | .decr1in8 _ => "DECR1IN8"
  | .alternate => "ALTERNATE"

/-! ### The invariant -/

/-- What one performed statement makes of PatternState (10_state R32). -/
def Stmt.patternEffect (p : PatternState) : Stmt → PatternState
  | .setPort q => { p with port := q }
  | .setI j => { p with i := j }
  | .fillAcc => p.filled
  | _ => p

/-- PatternState after the given statements (10_state R31, R32). -/
def patternAfter (p : PatternState) (done : List Stmt) : PatternState :=
  done.foldl Stmt.patternEffect p

/-- What is known of the locals `r` and `data`: how many bytes `data` holds if `r` is ok, and whether `r` was checked. -/
structure CallKnown where
  bytes   : Nat
  checked : Bool
  deriving DecidableEq, Repr

def Stmt.callEffect (c : CallKnown) : Stmt → CallKnown
  | .busWrite _ _ => ⟨0, false⟩
  | .busRead _ n => ⟨n, false⟩
  | .check _ => { c with checked := true }
  | _ => c

def knownAfter (done : List Stmt) : CallKnown := done.foldl Stmt.callEffect ⟨0, true⟩

/-- A running sequencer is inside the command its word spells, and its PatternState and locals are what the statements
performed so far make of them (10_state R31, R32, R36, 30_encoding R110). -/
def Run.inv (cfg : Params) (run : Run) : Prop :=
  ∃ i, decodeWord run.cmd = .ok i
    ∧ run.pos ≤ (program cfg i).length
    ∧ run.ps = (initialPattern run.cmd).map (fun p => patternAfter p ((program cfg i).take run.pos))
    ∧ ((knownAfter ((program cfg i).take run.pos)).checked = true → run.result = .ok)
    ∧ (run.result = .ok → run.data.length = (knownAfter ((program cfg i).take run.pos)).bytes)

/-- The three invariants 10_state R43 gives STATUS. -/
def Status.inv (cfg : Params) (st : Status) : Prop :=
  ¬ (st.busy = true ∧ st.done = true) ∧ ¬ (st.busy = true ∧ st.err = true) ∧ ¬ (st.done = true ∧ st.err = true)
    ∧ (st.err = false → st.ecode = .none ∧ st.edev = 0)
    ∧ (st.edev = 1 → cfg.ndev = 2)

/-- The sequencer's part: BUSY is 1 exactly when it is running (10_state R36), and then CMD holds the running word
(10_state R41, R50). -/
def State.seqInv (s : State) : Prop :=
  match s.seq with
  | .idle => s.status.busy = false
  | .running run => s.status.busy = true ∧ s.cmd = run.cmd ∧ run.inv s.cfg

/-- THE INVARIANT every step keeps. -/
def State.inv (s : State) : Prop := s.status.inv s.cfg ∧ s.seqInv

/-! ### The calls the spec gives each command -/

/-- One external call without its result (20_memory R73); `read` reads 3 bytes that go to DUMP from entry `base` on. -/
inductive Call where
  | write (d : Device) (bytes : List Byte)
  | read (d : Device) (base : Fin 22)
  | sleep
  deriving DecidableEq, Repr

/-- One register write to every configured device in turn (40_register_map_and_bus R145). -/
def writeCalls (cfg : Params) (bytes : List Byte) : List Call := cfg.devices.map fun d => .write d bytes

/-- The output register of a port: 0x04, 0x05, 0x06 (40_register_map_and_bus R140). -/
def outputRegister : Fin 3 → Byte
  | 0 => 0x04#8
  | 1 => 0x05#8
  | 2 => 0x06#8

/-- A single-port write (41_port_controller R170). -/
def portCalls (cfg : Params) (p : Fin 3) (b : Byte) : List Call := writeCalls cfg [outputRegister p, b]

/-- The same byte to ports 0, 1, 2 (41_port_controller R171). -/
def allCalls (cfg : Params) (b : Byte) : List Call := portCalls cfg 0 b ++ portCalls cfg 1 b ++ portCalls cfg 2 b

/-- Frames on all three ports, a Sleep after each (42_pattern_engine R203). -/
def frameCalls (cfg : Params) (bytes : List Byte) : List Call := bytes.flatMap fun b => allCalls cfg b ++ [.sleep]

/-- A resting level, frames, the resting level again (42_pattern_engine R202). -/
def framedCalls (cfg : Params) (rest : Byte) (bytes : List Byte) : List Call :=
  allCalls cfg rest ++ frameCalls cfg bytes ++ allCalls cfg rest

/-- The resting level (42_pattern_engine R202). -/
def restByte : Mode → Byte
  | .clearing => 0x00#8
  | .lighting => 0xFF#8

/-- The frames of MOVE1 and MOVE1IN8 (42_pattern_engine R210, R215). -/
def walkBytes : Mode → List Byte
  | .clearing => [0x01#8, 0x02#8, 0x04#8, 0x08#8, 0x10#8, 0x20#8, 0x40#8, 0x80#8]
  | .lighting => [0xFE#8, 0xFD#8, 0xFB#8, 0xF7#8, 0xEF#8, 0xDF#8, 0xBF#8, 0x7F#8]

/-- The frames of MOVE1IN4 (42_pattern_engine R220). -/
def pairBytes : Mode → List Byte
  | .clearing => [0x11#8, 0x22#8, 0x44#8, 0x88#8]
  | .lighting => [0xEE#8, 0xDD#8, 0xBB#8, 0x77#8]

/-- The frames of INCR1IN8 (42_pattern_engine R225). -/
def fillBytes : Mode → List Byte
  | .clearing => [0x01#8, 0x03#8, 0x07#8, 0x0F#8, 0x1F#8, 0x3F#8, 0x7F#8, 0xFF#8]
  | .lighting => [0xFE#8, 0xFC#8, 0xF8#8, 0xF0#8, 0xE0#8, 0xC0#8, 0x80#8, 0x00#8]

/-- MOVE1's frames on one port (42_pattern_engine R210). -/
def move1PortCalls (cfg : Params) (m : Mode) (p : Fin 3) : List Call :=
  (walkBytes m).flatMap fun b => portCalls cfg p b ++ [.sleep]

/-- MOVE1's handoff write after port `p` (42_pattern_engine R210, D17). -/
def handoffCalls (cfg : Params) (m : Mode) (p : Fin 3) : List Call :=
  match cfg.handoff with
  | .restore => portCalls cfg p (restByte m)
  | .none => []

/-- MOVE1's calls (42_pattern_engine R210). -/
def move1Calls (cfg : Params) (m : Mode) : List Call :=
  allCalls cfg (restByte m)
    ++ move1PortCalls cfg m 0 ++ handoffCalls cfg m 0
    ++ move1PortCalls cfg m 1 ++ handoffCalls cfg m 1
    ++ move1PortCalls cfg m 2
    ++ allCalls cfg (restByte m)

/-- DUMP's calls (41_port_controller R180): device by device, the groups at 0x80, 0x84, 0x88, 0x8C. -/
def dumpCalls (cfg : Params) : List Call :=
  cfg.devices.flatMap fun d =>
    [.write d [0x80#8], .read d ⟨12 * d.idx.val, by omega⟩,
     .write d [0x84#8], .read d ⟨12 * d.idx.val + 3, by omega⟩,
     .write d [0x88#8], .read d ⟨12 * d.idx.val + 6, by omega⟩,
     .write d [0x8C#8], .read d ⟨12 * d.idx.val + 9, by omega⟩]

/-- Bit `7 - j` of port group `g` is 1 exactly when character `8g + j` is '1' (20_memory R78, 41_port_controller R176). -/
def pinBit (pinstr : Vector Byte 32) (g : Fin 3) (j : Fin 8) : BitVec 1 :=
  BitVec.ofBool (pinstr[8 * g.val + j.val]'(by omega) == 0x31#8)

/-- The byte of a port group from its characters, most significant first (20_memory R78). -/
def pinGroup (pinstr : Vector Byte 32) (g : Fin 3) : Byte :=
  pinBit pinstr g 0 ++ pinBit pinstr g 1 ++ pinBit pinstr g 2 ++ pinBit pinstr g 3
    ++ pinBit pinstr g 4 ++ pinBit pinstr g 5 ++ pinBit pinstr g 6 ++ pinBit pinstr g 7

/-- A pin string SETPINS accepts: 24 characters, each '0' or '1' (41_port_controller R176). -/
def State.pinsValid (s : State) : Bool :=
  s.pinlen == 24#6 && (List.finRange 24).all fun k => s.pinstr[k.val] == 0x30#8 || s.pinstr[k.val] == 0x31#8

/-- A WRPORT or REGADDR port that RegisterMap knows (40_register_map_and_bus R141). -/
def validPort (port : Nat) : Option (Fin 3) := if h : port < 3 then some ⟨port, h⟩ else none

/-- The calls of a command that meets no failure, in order; none where its arguments are invalid. -/
def State.calls (s : State) : Instr → List Call
  | .cfgout => writeCalls s.cfg [0x8C#8, 0x00#8, 0x00#8, 0x00#8]
  | .wrport port data =>
    match validPort port with
    | some p => portCalls s.cfg p data
    | none => []
  | .setall .on => allCalls s.cfg 0xFF#8
  | .setall .off => allCalls s.cfg 0x00#8
  | .setpins =>
    if s.pinsValid then writeCalls s.cfg [0x84#8, pinGroup s.pinstr 0, pinGroup s.pinstr 1, pinGroup s.pinstr 2] else []
  | .dump => dumpCalls s.cfg
  | .regaddr _ _ _ => []
  | .move1 m => move1Calls s.cfg m
  | .move1in8 m => framedCalls s.cfg (restByte m) (walkBytes m)
  | .move1in4 m => framedCalls s.cfg (restByte m) (pairBytes m)
  | .incr1in8 m => framedCalls s.cfg (restByte m) (fillBytes m)
  | .decr1in8 .clearing => framedCalls s.cfg 0xFF#8 (fillBytes .lighting)
  | .decr1in8 .lighting => framedCalls s.cfg 0x00#8 (fillBytes .clearing)
  | .alternate => frameCalls s.cfg [0xAA#8, 0x55#8]

/-- Whether the arguments of a command are valid (60_exceptions R260 code 1). -/
def State.argumentsValid (s : State) : Instr → Bool
  | .wrport port _ => (validPort port).isSome
  | .regaddr port _ _ => (validPort port).isSome
  | .setpins => s.pinsValid
  | _ => true

/-! ### A command's end, from its calls -/

/-- The state of an ended command: idle, STATUS as 30_encoding R112 leaves it. -/
def State.ended (s : State) : State :=
  { s with seq := .idle, status := { s.status with busy := false, done := true } }

/-- The state of a failed command: idle, STATUS as 60_exceptions R262 leaves it. -/
def State.failed (code : ECode) (dev : Fin 2) (s : State) : State :=
  { s with
    seq := .idle
    status := { s.status with busy := false, done := false, err := true, ecode := code, edev := dev } }

/-- A bus call returned: its event, and its answer used up. -/
def State.afterBus (e : Event) (s : State) : State :=
  { s with trace := s.trace ++ [e], replies := s.replies.tail, draws := s.draws + 1 }

/-- A Sleep returned: its event, and its answer used up. -/
def State.afterSleep (s : State) : State :=
  { s with trace := s.trace ++ [.sleep s.delay], clock := s.clock.tail, ticks := s.ticks + 1 }

/-- Three bytes stored to DUMP from entry `base` on (41_port_controller R180). -/
def storeThree (v : Vector Byte 24) (base : Fin 22) : List Byte → Vector Byte 24
  | [b0, b1, b2] => ((v.set base.val b0).set (base.val + 1) b1).set (base.val + 2) b2
  | _ => v

/-- The end of a command that still has the given calls to make: each in order, the first failure ending it
(20_memory R86, 60_exceptions R261, R262), then `finish` and completion (30_encoding R112). -/
def runCalls (finish : State → State) : List Call → State → State
  | [], s => (finish s).ended
  | .write d bytes :: cs, s =>
    match s.replyAt 0 0 with
    | .never => s
    | .returns .ok _ => runCalls finish cs (s.afterBus (.busWrite d.idx d.addr bytes .ok))
    | .returns .ioError _ => (s.afterBus (.busWrite d.idx d.addr bytes .ioError)).failed .transportError d.idx
    | .returns .noAck _ => (s.afterBus (.busWrite d.idx d.addr bytes .noAck)).failed .deviceNotFound d.idx
  | .read d base :: cs, s =>
    match s.replyAt 0 3 with
    | .never => s
    | .returns .ok data =>
      let t := s.afterBus (.busRead d.idx d.addr 3 .ok data)
      runCalls finish cs { t with dump := storeThree t.dump base data }
    | .returns .ioError _ => (s.afterBus (.busRead d.idx d.addr 3 .ioError [])).failed .transportError d.idx
    | .returns .noAck _ => (s.afterBus (.busRead d.idx d.addr 3 .noAck [])).failed .deviceNotFound d.idx
  | .sleep :: cs, s =>
    match s.clockAt 0 with
    | .never => s
    | .returns => runCalls finish cs s.afterSleep

/-- RESULT of a REGADDR with a valid port: `AI*0x80 + FAM*4 + PORT` (30_encoding R108). -/
def addressBits (port : Nat) (family : Family) (mode : AddrMode) : Byte :=
  BitVec.ofBool mode.toBit ++ 0#3 ++ family.toBits ++ BitVec.ofNat 2 port

/-- What a command writes besides STATUS after its last call: OUTCFG (40_register_map_and_bus R150) or RESULT (R142). -/
def finishOf : Instr → State → State
  | .cfgout, s => { s with status := { s.status with outcfg := true } }
  | .regaddr port family mode, s => { s with result := addressBits port family mode }
  | _, s => s

/-- The end of a command, from its start (41_port_controller, 42_pattern_engine): InvalidArgument before any call
where its arguments are invalid, else its calls. -/
def State.endOf (i : Instr) (s : State) : State :=
  if s.argumentsValid i then runCalls (finishOf i) (s.calls i) s else s.failed .invalidArgument 0

/-- The event of a call that returned ok; `read`s have data of their own. -/
def Call.okEvent (delay : Word) : Call → Event
  | .write d bytes => .busWrite d.idx d.addr bytes .ok
  | .read d _ => .busRead d.idx d.addr 3 .ok []
  | .sleep => .sleep delay

/-- The state after a command whose calls, none of them a read, all returned ok: its events appended, its answers used
up, and completion. -/
def State.afterOk (s : State) (calls : List Call) : State :=
  let sleeps := calls.countP (· = .sleep)
  let bus := calls.length - sleeps
  { s with
    trace := s.trace ++ calls.map (Call.okEvent s.delay)
    replies := s.replies.drop bus
    draws := s.draws + bus
    clock := s.clock.drop sleeps
    ticks := s.ticks + sleeps
    seq := .idle
    status := { s.status with busy := false, done := true } }

/-- A trace's calls of the block, results and data left out. -/
def Event.call : Event → Option (Fin 2 × BitVec 7 × List Byte ⊕ Fin 2 × BitVec 7 × Nat ⊕ Word)
  | .hostWrite _ _ => none
  | .hostRead _ _ => none
  | .busWrite d a bytes _ => some (.inl (d, a, bytes))
  | .busRead d a n _ _ => some (.inr (.inl (d, a, n)))
  | .sleep n => some (.inr (.inr n))

/-- A call as `Event.call` shows it. -/
def Call.shown (delay : Word) : Call → Fin 2 × BitVec 7 × List Byte ⊕ Fin 2 × BitVec 7 × Nat ⊕ Word
  | .write d bytes => .inl (d.idx, d.addr, bytes)
  | .read d _ => .inr (.inl (d.idx, d.addr, 3))
  | .sleep => .inr (.inr delay)

end Sys2Proof.Machine
end

