-- ==== Sys2Proof/Certificates/Slice0/Obligations.lean ====
section
/-! DEFINITION. Obligations.lean: the statements for the provers, each a rule of spec/ or a consequence of one. -/

open Sys2Proof Sys2Proof.Machine

/-! ### Encoding (30_encoding) -/

/-- Decoding the word of a well-formed command gives the command back, whatever its operands (30_encoding R100, R103). -/
def Obligations.DecodeOfEncodeIsIdentity : Prop :=
  ∀ i : Instr, i.wellFormed = true → decodeWord (encode i) = .ok i

/-- A word that decodes is the word of the command it decodes to, and that command is well-formed: no bit is dropped
and no word has a second meaning (30_encoding R101, R103). -/
def Obligations.EncodeOfDecodeIsIdentity : Prop :=
  ∀ (w : Word) (i : Instr), decodeWord w = .ok i → i.wellFormed = true ∧ encode i = w

/-- The twelve rows of 30_encoding R103, written out: mnemonic, match, mask. -/
def Sys2Proof.Claims.matchMaskTable : List (String × Word × Word) :=
  [ ("CFGOUT",    0x00000001#32, 0xFFFFFFFF#32), ("WRPORT",    0x00000002#32, 0xFF00F9FF#32),
    ("SETALL",    0x00000003#32, 0xFFFFFEFF#32), ("SETPINS",   0x00000004#32, 0xFFFFFFFF#32),
    ("DUMP",      0x00000005#32, 0xFFFFFFFF#32), ("REGADDR",   0x00000006#32, 0xFFFFC1FF#32),
    ("MOVE1",     0x00000010#32, 0xFFFFFEFF#32), ("MOVE1IN8",  0x00000011#32, 0xFFFFFEFF#32),
    ("MOVE1IN4",  0x00000012#32, 0xFFFFFEFF#32), ("INCR1IN8",  0x00000013#32, 0xFFFFFEFF#32),
    ("DECR1IN8",  0x00000014#32, 0xFFFFFEFF#32), ("ALTERNATE", 0x00000015#32, 0xFFFFFFFF#32) ]

/-- 30_encoding R103: a word decodes to a command of a row exactly when it matches the row, no two rows match one
word, and a word that matches no row does not decode. -/
def Obligations.LegalWordsMatchTheTable : Prop :=
  ∀ w : Word,
    (∀ row ∈ Sys2Proof.Claims.matchMaskTable,
      (w &&& row.2.2 = row.2.1 ↔ ∃ i, decodeWord w = .ok i ∧ mnemonic i = row.1))
    ∧ (∀ r1 ∈ Sys2Proof.Claims.matchMaskTable, ∀ r2 ∈ Sys2Proof.Claims.matchMaskTable,
      w &&& r1.2.2 = r1.2.1 → w &&& r2.2.2 = r2.2.1 → r1 = r2)
    ∧ (∀ i, decodeWord w = .ok i → ∃ row ∈ Sys2Proof.Claims.matchMaskTable, mnemonic i = row.1)

/-- Words written out from 30_encoding R100, R102 and R114 decode to the commands they stand for. -/
def Obligations.WrittenOutWordsDecode : Prop :=
  decodeWord 0b00000000000000000000000000000001#32 = .ok .cfgout
  ∧ decodeWord 0b00000000010110100000001000000010#32 = .ok (.wrport 1 0x5A#8)
  ∧ decodeWord 0b00000000000000000000000100000011#32 = .ok (.setall .on)
  ∧ decodeWord 0b00000000000000000011110000000110#32 = .ok (.regaddr 2 .config .ai)
  ∧ decodeWord 0b00000000000000000000000100010000#32 = .ok (.move1 .lighting)
  ∧ decodeWord 0b00000000000000000000000000010100#32 = .ok (.decr1in8 .clearing)
  ∧ decodeWord 0b00000000000000000000000000010101#32 = .ok .alternate
  ∧ decodeWord 0b00000000000000000000000100010101#32 = .error (.reservedBits 0x15#8)
  ∧ decodeWord 0b00000000000000000000000000000111#32 = .error (.unassignedOpcode 0x07#8)

/-! ### Reset (70_reset_and_hazards, 10_state R55) -/

/-- 10_state R55: block reset, at any time, leaves the sequencer idle (so no position and no PatternState) and every
register at 0, and DEVCFG reflects the configuration the environment sets. -/
def Obligations.BlockResetLeavesTheResetValues : Prop :=
  ∀ (s : State) (cfg : Params) (ts : List Turn), s.turns = .reset cfg :: ts →
    ∃ t, step s = .next t ∧ t.seq = .idle ∧ t.cmd = 0#32 ∧ t.delay = 0#32
      ∧ t.status = { busy := false, done := false, err := false, outcfg := false, ecode := .none, edev := 0 }
      ∧ t.readWindow 0x08 = 0#32 ∧ t.result = 0#8 ∧ t.readWindow 0x10 = devcfgWord cfg ∧ t.pinlen = 0#6
      ∧ (∀ k : Fin 32, t.pinstr[k] = 0#8) ∧ (∀ k : Fin 24, t.dump[k] = 0#8)
      ∧ t.cfg = cfg

/-! ### The invariant (10_state R31, R32, R36, R43) -/

/-- The invariant holds right after reset. -/
def Obligations.ResetMeetsTheInvariant : Prop := State.reset.inv

/-- Every step keeps the invariant: STATUS's three invariants (10_state R43), BUSY exactly while running (R36), CMD the
running word (R41, R50), PatternState and the position in step with each other (R31, R32). -/
def Obligations.EveryStepKeepsTheInvariant : Prop :=
  ∀ s t : State, s.inv → step s = .next t → t.inv

/-- From a state that meets the invariant, a step refuses only a host access the window does not admit (20_memory R70)
or a listed reply that breaks the transport's contract (20_memory R73): no command is ever refused, and nothing faults.
That the window admits no offset from 0x100 up is the MODEL's choice (log entry 14). -/
def Obligations.StepRefusesNoCommand : Prop :=
  ∀ s : State, s.inv →
    (∃ t, step s = .next t)
    ∨ (∃ off width, step s = .refused (.hostAccess off width) ∧ admitted off width = false)
    ∨ (∃ n got, step s = .refused (.readLength n got) ∧ ∃ data rest, s.replies = .returns .ok data :: rest ∧ data.length ≠ n)

/-! ### One step of the machine (20_memory R88, 30_encoding R111) -/

/-- The sequencer's turn performs `exec` of the command its word spells (30_encoding R111): the turn is a listed one,
or the default one of a schedule with no turn listed (the MODEL's choice, log entry 6). -/
def Obligations.SequencerTurnRunsTheDecodedCommand : Prop :=
  ∀ (s : State) (run : Run) (i : Instr), s.seq = .running run → decodeWord run.cmd = .ok i →
    (∀ ts, s.turns = .sequencer :: ts → step s = exec i { s with turns := ts })
    ∧ (s.turns = [] → step s = exec i s)

/-- Each step adds at most one event to the trace, and none is ever taken out (20_memory R74, R88). -/
def Obligations.StepAddsAtMostOneEvent : Prop :=
  ∀ s t : State, step s = .next t → ∃ es, t.trace = s.trace ++ es ∧ es.length ≤ 1

/-- A command starts only by a host write of a legal word to CMD (20_memory R83, 30_encoding R110). What the locals of the
pseudocode hold at the start is the MODEL's choice (log entry 19). -/
def Obligations.OnlyACmdWriteStartsACommand : Prop :=
  ∀ (s t : State) (run : Run), s.seq = .idle → step s = .next t → t.seq = .running run →
    ∃ w i, t.trace = s.trace ++ [.hostWrite 0x00 w] ∧ decodeWord w = .ok i ∧ run = Run.start w ∧ t.cmd = w
      ∧ s.status.busy = false ∧ t.status.busy = true

/-- The configuration changes only at a block reset (10_state R34). -/
def Obligations.ConfigurationChangesOnlyAtReset : Prop :=
  ∀ s t : State, step s = .next t → (∀ cfg ts, s.turns ≠ .reset cfg :: ts) → t.cfg = s.cfg

/-- A running command sees its operands as they were when it was accepted (20_memory R92, 10_state R50). -/
def Obligations.OperandsAreFixedWhileRunning : Prop :=
  ∀ (s t : State) (run : Run), s.inv → s.seq = .running run → step s = .next t →
    (∀ cfg ts, s.turns ≠ .reset cfg :: ts) →
    t.cmd = s.cmd ∧ t.delay = s.delay ∧ t.pinlen = s.pinlen ∧ t.pinstr = s.pinstr

/-- OUTCFG, once 1, is cleared by reset only (10_state R43); RESULT changes only while a REGADDR runs (R44), and DUMP
only while a DUMP runs (R48). -/
def Obligations.OnlyTheirCommandsWriteOutcfgResultAndDump : Prop :=
  ∀ s t : State, step s = .next t → (∀ cfg ts, s.turns ≠ .reset cfg :: ts) →
    (s.status.outcfg = true → t.status.outcfg = true)
    ∧ (s.status.outcfg = false → t.status.outcfg = true →
        ∃ run, s.seq = .running run ∧ decodeWord run.cmd = .ok .cfgout)
    ∧ (t.result ≠ s.result → ∃ run p f m, s.seq = .running run ∧ decodeWord run.cmd = .ok (.regaddr p f m))
    ∧ (t.dump ≠ s.dump → ∃ run, s.seq = .running run ∧ decodeWord run.cmd = .ok .dump)

/-! ### The host window (10_state R40 to R50, 20_memory R70, R76) -/

/-- 30_encoding R110: what a host write to CMD does while BUSY is 0, for an illegal and for a legal word. -/
def Obligations.CmdWriteLatches : Prop :=
  ∀ (s : State) (w : Word), s.status.busy = false →
    (∀ e, decodeWord w = .error e →
      s.memWrite 0x00 4 w = .next { s with
        trace := s.trace ++ [.hostWrite 0x00 w]
        cmd := w
        seq := .idle
        status := { busy := false, done := false, err := true, outcfg := s.status.outcfg, ecode := .illegalCommand, edev := 0 } })
    ∧ (∀ i, decodeWord w = .ok i →
      ∃ run, run.cmd = w ∧ run.pos = 0
        ∧ run.ps = (if 0x10 ≤ (fieldOpc w).toNat ∧ (fieldOpc w).toNat ≤ 0x15
            then some { acc := 0x00#8, mode := Mode.ofBit (w.getLsbD 8), port := 0, i := 0 } else none)
        ∧ s.memWrite 0x00 4 w = .next { s with
          trace := s.trace ++ [.hostWrite 0x00 w]
          cmd := w
          seq := .running run
          status := { busy := true, done := false, err := false, outcfg := s.status.outcfg, ecode := .none, edev := 0 } })

/-- 10_state R50: while BUSY is 1 every host write of the window changes nothing but the trace, and reads stay allowed. -/
def Obligations.BusyWritesAreIgnored : Prop :=
  ∀ (s : State) (off : Nat) (v : Word), s.status.busy = true → admitted off 4 = true →
    (∃ t, s.memWrite off 4 v = .next t ∧ t = { s with trace := t.trace })
    ∧ s.memRead off 4 = .next { s with trace := s.trace ++ [.hostRead off (s.readWindow off)] }

/-- A host write to a read-only or reserved offset changes nothing but the trace (10_state R43 to R45, R48, R49). -/
def Obligations.ReadOnlyAndReservedOffsetsIgnoreWrites : Prop :=
  ∀ (s : State) (off : Nat) (v : Word), admitted off 4 = true →
    off = 0x08 ∨ off = 0x0C ∨ off = 0x10 ∨ off = 0x18 ∨ off = 0x1C ∨ 0x40 ≤ off →
    ∃ t, s.memWrite off 4 v = .next t ∧ t = { s with trace := t.trace }

/-- What a host read returns at every offset (10_state R41 to R49), and that it changes nothing (20_memory R83). -/
def Obligations.HostReadsTheRegisterMap : Prop :=
  ∀ (s : State) (off : Nat), admitted off 4 = true →
    s.memRead off 4 = .next { s with trace := s.trace ++ [.hostRead off (s.readWindow off)] }
    ∧ (off = 0x00 → s.readWindow off = s.cmd)
    ∧ (off = 0x04 → s.readWindow off = s.delay)
    ∧ (off = 0x08 → ∀ b, (s.readWindow off).getLsbD b
        = (b == 0 && s.status.busy || b == 1 && s.status.done || b == 2 && s.status.err || b == 3 && s.status.outcfg
          || decide (8 ≤ b ∧ b ≤ 10) && s.status.ecode.toBits.getLsbD (b - 8) || b == 11 && decide (s.status.edev = 1)))
    ∧ (off = 0x0C → s.readWindow off = s.result.setWidth 32)
    ∧ (off = 0x10 → s.readWindow off = BitVec.ofNat 32
        (s.cfg.ndev + 2 ^ 8 * s.cfg.addr0.toNat + 2 ^ 16 * (match s.cfg.addr1 with
          | some a => a.toNat
          | none => 0)))
    ∧ (off = 0x14 → s.readWindow off = s.pinlen.setWidth 32)
    ∧ (off = 0x18 ∨ off = 0x1C ∨ 0x58 ≤ off → s.readWindow off = 0#32)
    ∧ (∀ j : Fin 8, off = 0x20 + 4 * j.val → ∀ k : Fin 4,
        lane (s.readWindow off) k.val = s.pinstr[4 * j.val + k.val]'(by omega))
    ∧ (∀ j : Fin 6, off = 0x40 + 4 * j.val → ∀ k : Fin 4,
        lane (s.readWindow off) k.val = s.dump[4 * j.val + k.val]'(by omega))

/-- A host write to DELAY, PINLEN or a PINSTR word while BUSY is 0 is read back (10_state R42, R46, R47), and it changes
no other byte of the window. -/
def Obligations.WrittenOperandRegistersReadBack : Prop :=
  ∀ (s : State) (off : Nat) (v : Word), s.status.busy = false → admitted off 4 = true →
    off = 0x04 ∨ off = 0x14 ∨ (0x20 ≤ off ∧ off < 0x40) →
    ∃ t, s.memWrite off 4 v = .next t
      ∧ t.readWindow off = (if off = 0x14 then v &&& 0x3F#32 else v)
      ∧ (∀ a, a / 4 ≠ off / 4 → t.windowByte a = s.windowByte a)
      ∧ t.seq = s.seq ∧ t.trace = s.trace ++ [.hostWrite off v]

/-- A host access that is not 32 bits wide or not at a multiple of 4 is refused (20_memory R70,
93_implementation_defined U4). That an access at an offset from 0x100 up is refused as well is the MODEL's choice
(log entry 14): R70 and U4 name the wrong width and the misaligned offset only. -/
def Obligations.UnadmittedAccessesAreRefused : Prop :=
  ∀ (s : State) (off width : Nat) (v : Word), width ≠ 4 ∨ off % 4 ≠ 0 ∨ 0x100 ≤ off →
    s.memWrite off width v = .refused (.hostAccess off width)
    ∧ s.memRead off width = .refused (.hostAccess off width)

/-- The host cannot tell PatternState, nor the position: no register depends on them (10_state R31, R33). -/
def Obligations.HostCannotSeePatternState : Prop :=
  ∀ (s : State) (run run' : Run) (off : Nat),
    State.readWindow off { s with seq := .running run } = State.readWindow off { s with seq := .running run' }

/-- `WAIT` polls STATUS, one `HR 0x08` a turn, and ends when it has read BUSY as 0 (30_encoding R116). -/
def Obligations.WaitPollsUntilIdle : Prop :=
  ∀ (s : State) (rest : List HostStmt), s.host = .wait :: rest →
    s.hostTurn = .next { s with
      trace := s.trace ++ [.hostRead 0x08 s.status.toWord]
      host := if s.status.busy then .wait :: rest else rest }

/-- The host statements of a list of writes, run one after the other on an idle block. -/
def Sys2Proof.Claims.hostWrites : List HostStmt → State → State
  | .write off _ v :: rest, s => Sys2Proof.Claims.hostWrites rest (s.writeWindow off v)
  | _, s => s

/-- `PINS "s"` (30_encoding R116): the expansion of a string of at most 32 characters is admitted writes, and on an idle
block it leaves the string in PINSTR and its length in PINLEN. The string is given by its character codes: that codes
128 to 255 are taken as bytes is the MODEL's choice (log entry 27). -/
def Obligations.PinsWritesTheString : Prop :=
  ∀ (chars : List Nat) (s : State), chars.length ≤ 32 → (∀ c ∈ chars, c < 256) → s.status.busy = false →
    ∃ stmts, Line.expand (.pins chars) = some stmts
      ∧ (∀ st ∈ stmts, ∃ off v, st = .write off 4 v ∧ admitted off 4 = true)
      ∧ (Sys2Proof.Claims.hostWrites stmts s).pinlen = BitVec.ofNat 6 chars.length
      ∧ (∀ (k : Nat) (h : k < 32), k < chars.length →
          ((Sys2Proof.Claims.hostWrites stmts s).pinstr[k]).toNat = chars.getD k 0)

/-- Lines of text and the words they stand for (30_encoding R114 to R116). -/
def Obligations.AssembledLinesAreTheirWords : Prop :=
  assemble ["cfgout"] = some [.write 0x00 4 0x00000001#32]
  ∧ assemble ["WRPORT 1, 0x5A"] = some [.write 0x00 4 0x005A0202#32]
  ∧ assemble ["WRPORT 4, 0"] = none
  ∧ assemble ["SETALL ON"] = some [.write 0x00 4 0x00000103#32]
  ∧ assemble ["Run REGADDR 2, CONFIG, AI"] = some [.write 0x00 4 0x00003C06#32, .wait]
  ∧ assemble ["DELAY 100", "HR 0x40"] = some [.write 0x04 4 0x00000064#32, .read 0x40 4]
  ∧ assemble [".word 0b100010101"] = some [.write 0x00 4 0x00000115#32]

/-! ### RegisterMap (40_register_map_and_bus R140 to R143, 30_encoding R108) -/

/-- 40_register_map_and_bus R140: the bases, and the address of every port. -/
def Obligations.RegisterMapIsBasePlusPort : Prop :=
  ∀ (p : Nat), p < 3 →
    regMap p .input .nonAi = some (0x00#8 + BitVec.ofNat 8 p) ∧ regMap p .input .ai = some (0x80#8 + BitVec.ofNat 8 p)
    ∧ regMap p .output .nonAi = some (0x04#8 + BitVec.ofNat 8 p) ∧ regMap p .output .ai = some (0x84#8 + BitVec.ofNat 8 p)
    ∧ regMap p .polarity .nonAi = some (0x08#8 + BitVec.ofNat 8 p) ∧ regMap p .polarity .ai = some (0x88#8 + BitVec.ofNat 8 p)
    ∧ regMap p .config .nonAi = some (0x0C#8 + BitVec.ofNat 8 p) ∧ regMap p .config .ai = some (0x8C#8 + BitVec.ofNat 8 p)

/-- 30_encoding R108: `addr[7]` is AI, `addr[6:4]` 0, `addr[3:2]` the family, `addr[1:0]` the port. -/
def Obligations.RegisterAddressLayout : Prop :=
  ∀ (p : Nat) (f : Family) (m : AddrMode) (a : Byte), regMap p f m = some a →
    a.getLsbD 7 = m.toBit ∧ a.extractLsb' 4 3 = 0#3 ∧ a.extractLsb' 2 2 = f.toBits ∧ a.extractLsb' 0 2 = BitVec.ofNat 2 p
    ∧ p < 3 ∧ a.toNat = 0x80 * m.toBit.toNat + 0x04 * f.toBits.toNat + p

/-- 40_register_map_and_bus R143: the 24 addresses are pairwise distinct. -/
def Obligations.RegisterAddressesAreUnique : Prop :=
  ∀ (p q : Nat) (f g : Family) (m n : AddrMode) (a : Byte),
    regMap p f m = some a → regMap q g n = some a → p = q ∧ f = g ∧ m = n

/-- 40_register_map_and_bus R141: a port outside 0, 1, 2 is RegisterMap's only failure, a REGADDR or WRPORT of it
raises InvalidArgument at its first statement, before any call, and the only such port a command word carries is 3. -/
def Obligations.InvalidPortRaisesInvalidArgument : Prop :=
  ∀ (p : Nat) (f : Family) (m : AddrMode) (b : Byte),
    (regMap p f m = none ↔ ¬ p < 3)
    ∧ (∀ (s : State) (run : Run), ¬ p < 3 → s.seq = .running run → run.pos = 0 →
      exec (.regaddr p f m) s = .next (s.failed .invalidArgument 0)
      ∧ exec (.wrport p b) s = .next (s.failed .invalidArgument 0))
    ∧ ∀ (w : Word), decodeWord w = .ok (.wrport p b) ∨ decodeWord w = .ok (.regaddr p f m) → ¬ p < 3 → p = 3

/-! ### One statement of a command (30_encoding R111, R112, 60_exceptions R261, R262) -/

/-- 30_encoding R112: at the end of its rule every command completes in one step. -/
def Obligations.CommandCompletesAtItsEnd : Prop :=
  ∀ (i : Instr) (s : State) (run : Run), s.seq = .running run → run.pos = (program s.cfg i).length →
    exec i s = .next { s with seq := .idle, status := { s.status with busy := false, done := true } }

/-- Every command, at every position a run reaches, answers a next state, and while calls return it moves: to its next
statement, or to its end. -/
def Obligations.EveryCommandAnswersNext : Prop :=
  ∀ (i : Instr) (s : State) (run : Run), s.inv → s.seq = .running run → decodeWord run.cmd = .ok i →
    s.callsReturn 1 →
    (∀ d n, (program s.cfg i)[run.pos]? = some (.busRead d n) → s.brokenRead n = none) →
    ∃ t, exec i s = .next t
      ∧ (t.seq = .idle ∨ ∃ run', t.seq = .running run' ∧ run'.cmd = run.cmd ∧ run'.pos = run.pos + 1)

/-- 60_exceptions R261: what `Check(r, d)` does, in any command that has it next. -/
def Obligations.CheckRaisesTransportErrors : Prop :=
  ∀ (i : Instr) (s : State) (run : Run) (d : Device), s.seq = .running run →
    (program s.cfg i)[run.pos]? = some (.check d) →
    (run.result = .ioError → exec i s = .next (s.failed .transportError d.idx))
    ∧ (run.result = .noAck → exec i s = .next (s.failed .deviceNotFound d.idx))
    ∧ (run.result = .ok → exec i s = .next { s with seq := .running { run with pos := run.pos + 1 } })

/-- 60_exceptions R262: the step in which a command raises changes STATUS and the sequencer and nothing else, and makes
no call. -/
def Obligations.ErrorEntryChangesOnlyStatus : Prop :=
  ∀ (i : Instr) (s t : State), exec i s = .next t → s.status.err = false → t.status.err = true →
    t = { s with
      seq := .idle
      status := ⟨false, false, true, s.status.outcfg, t.status.ecode, t.status.edev⟩ }
    ∧ t.status.ecode ≠ .none ∧ t.status.ecode ≠ .illegalCommand

/-- A call that has not returned: the sequencer waits, nothing changes, and the block stays BUSY
(60_exceptions R275, 70_reset_and_hazards R325). -/
def Obligations.CallThatNeverReturnsWaits : Prop :=
  ∀ (i : Instr) (s : State) (run : Run), s.seq = .running run →
    (∀ d payload bytes, (program s.cfg i)[run.pos]? = some (.busWrite d payload) →
      evalBytes s.pinstr run.ps payload = .ok bytes → s.replyAt 0 0 = .never → exec i s = .next s)
    ∧ (∀ d n, (program s.cfg i)[run.pos]? = some (.busRead d n) → s.replyAt 0 n = .never → exec i s = .next s)
    ∧ ((program s.cfg i)[run.pos]? = some .sleep → s.clockAt 0 = .never → exec i s = .next s)

/-- No command reads STATUS to decide its own behaviour (10_state R51): with another STATUS, the same step. -/
def Obligations.StatusDecidesNothing : Prop :=
  ∀ (i : Instr) (s t : State) (st : Status), exec i s = .next t →
    ∃ st', exec i { s with status := st } = .next { t with status := st' }

/-! ### Frames -/

/-- What WRPORT, SETALL, SETPINS and the six patterns leave unchanged: every register but STATUS, every byte of the
window outside STATUS, OUTCFG, the configuration and the host's program. (They store to no block register:
41_port_controller, 42_pattern_engine, "Flags: none beyond the common ones".) -/
def Obligations.FrameOfTheOutputCommands : Prop :=
  ∀ (i : Instr) (s t : State),
    (∃ p b, i = .wrport p b) ∨ (∃ l, i = .setall l) ∨ i = .setpins ∨ (∃ m, i = .move1 m) ∨ (∃ m, i = .move1in8 m)
      ∨ (∃ m, i = .move1in4 m) ∨ (∃ m, i = .incr1in8 m) ∨ (∃ m, i = .decr1in8 m) ∨ i = .alternate →
    exec i s = .next t →
    t.cmd = s.cmd ∧ t.delay = s.delay ∧ t.result = s.result ∧ t.pinlen = s.pinlen ∧ t.pinstr = s.pinstr
      ∧ t.dump = s.dump ∧ t.cfg = s.cfg ∧ t.turns = s.turns ∧ t.host = s.host
      ∧ t.status.outcfg = s.status.outcfg
      ∧ (∀ a, a / 4 ≠ 2 → t.windowByte a = s.windowByte a)

/-- What CFGOUT leaves unchanged: as the output commands, but OUTCFG may become 1 (40_register_map_and_bus R150). -/
def Obligations.FrameOfCfgout : Prop :=
  ∀ s t : State, exec .cfgout s = .next t →
    t.cmd = s.cmd ∧ t.delay = s.delay ∧ t.result = s.result ∧ t.pinlen = s.pinlen ∧ t.pinstr = s.pinstr
      ∧ t.dump = s.dump ∧ t.cfg = s.cfg ∧ t.turns = s.turns ∧ t.host = s.host
      ∧ (s.status.outcfg = true → t.status.outcfg = true)
      ∧ (∀ a, a / 4 ≠ 2 → t.windowByte a = s.windowByte a)

/-- What REGADDR leaves unchanged: every register but STATUS and RESULT, every byte of the window outside these two,
the trace, and every answer of the transport and the clock: it makes no call (40_register_map_and_bus R142). -/
def Obligations.FrameOfRegaddr : Prop :=
  ∀ (p : Nat) (f : Family) (m : AddrMode) (s t : State), exec (.regaddr p f m) s = .next t →
    t.cmd = s.cmd ∧ t.delay = s.delay ∧ t.pinlen = s.pinlen ∧ t.pinstr = s.pinstr ∧ t.dump = s.dump ∧ t.cfg = s.cfg
      ∧ t.turns = s.turns ∧ t.host = s.host ∧ t.trace = s.trace ∧ t.replies = s.replies ∧ t.clock = s.clock
      ∧ t.draws = s.draws ∧ t.ticks = s.ticks ∧ t.status.outcfg = s.status.outcfg
      ∧ (∀ a, a / 4 ≠ 2 → a / 4 ≠ 3 → t.windowByte a = s.windowByte a)

/-- What DUMP leaves unchanged: every register but STATUS and the DUMP buffer, every byte of the window outside them;
and when its statement stores to an entry, every other entry (41_port_controller R180). -/
def Obligations.FrameOfDump : Prop :=
  ∀ s t : State, exec .dump s = .next t →
    t.cmd = s.cmd ∧ t.delay = s.delay ∧ t.result = s.result ∧ t.pinlen = s.pinlen ∧ t.pinstr = s.pinstr
      ∧ t.cfg = s.cfg ∧ t.turns = s.turns ∧ t.host = s.host ∧ t.status.outcfg = s.status.outcfg
      ∧ (∀ a, a / 4 ≠ 2 → (a < 0x40 ∨ 0x58 ≤ a) → t.windowByte a = s.windowByte a)
      ∧ (∀ run k p, s.seq = .running run → (program s.cfg .dump)[run.pos]? = some (.storeDump k p) →
          (∃ b, run.data[p]? = some b ∧ t.dump[k] = b)
          ∧ ∀ a, a ≠ 0x40 + k.val → a / 4 ≠ 2 → t.windowByte a = s.windowByte a)
      ∧ (∀ run, s.seq = .running run → (∀ k p, (program s.cfg .dump)[run.pos]? ≠ some (.storeDump k p)) →
          t.dump = s.dump)

/-! ### Whole commands: from the latch to the end -/

/-- Every command, run from its latch with every call returning, ends within 180 statements in exactly the state the
spec's own account of it gives: its calls in order, each checked, the first failure ending it with its error and
EDEV, no call after it; else its effect and completion. Two things in it are the MODEL's: that the event of a read that
failed carries no data (log entry 18), and the bound of 180, which counts the model's own steps (log entries 1
and 26). -/
def Obligations.EveryCommandRunsAsItsRule : Prop :=
  ∀ (i : Instr) (s : State), s.atStart i → s.callsReturn (s.calls i).length → (i = .dump → s.readsWhole) →
    ∃ n, n ≤ 180 ∧ execTimes i n s = .next (s.endOf i)

/-- At every moment of a command's run, whatever the transport answers, the calls it has made are the first ones of the
calls its rule gives: none is skipped, repeated, reordered or added (20_memory R83, R86, 60_exceptions R266). -/
def Obligations.CallsAreAlwaysAPrefixOfTheRule : Prop :=
  ∀ (i : Instr) (s t : State) (n : Nat), s.atStart i → execTimes i n s = .next t →
    ∃ es k, t.trace = s.trace ++ es ∧ es.map Event.call = ((s.calls i).take k).map (fun c => some (c.shown s.delay))

/-- CFGOUT with an answering bus (40_register_map_and_bus R150): one burst [0x8C, 0, 0, 0] to each device in turn, then
OUTCFG and DONE are 1. -/
def Obligations.CfgoutConfiguresEveryDevice : Prop :=
  ∀ s : State, s.atStart .cfgout → s.busOk s.cfg.ndev →
    ∃ n, execTimes .cfgout n s = .next { s with
      trace := s.trace ++ s.cfg.devices.map (fun d => .busWrite d.idx d.addr [0x8C#8, 0x00#8, 0x00#8, 0x00#8] .ok)
      replies := s.replies.drop s.cfg.ndev
      draws := s.draws + s.cfg.ndev
      seq := .idle
      status := { s.status with busy := false, done := true, outcfg := true } }

/-- WRPORT with an answering bus (41_port_controller R172): [0x04 + p, b] to each device in turn, then DONE. -/
def Obligations.WrportWritesOnePort : Prop :=
  ∀ (p : Nat) (b : Byte) (s : State), p < 3 → s.atStart (.wrport p b) → s.busOk s.cfg.ndev →
    ∃ n, execTimes (.wrport p b) n s = .next { s with
      trace := s.trace ++ s.cfg.devices.map (fun d => .busWrite d.idx d.addr [0x04#8 + BitVec.ofNat 8 p, b] .ok)
      replies := s.replies.drop s.cfg.ndev
      draws := s.draws + s.cfg.ndev
      seq := .idle
      status := { s.status with busy := false, done := true } }

/-- SETALL with an answering bus (41_port_controller R171, R174): the level's byte to ports 0, 1, 2, each to every device,
by single-port writes, then DONE. -/
def Obligations.SetallWritesAllPorts : Prop :=
  ∀ (l : Level) (s : State), s.atStart (.setall l) → s.busOk (3 * s.cfg.ndev) →
    ∃ n, execTimes (.setall l) n s = .next { s with
      trace := s.trace ++ [0x04#8, 0x05#8, 0x06#8].flatMap (fun a => s.cfg.devices.map fun d =>
        .busWrite d.idx d.addr [a, if l = .on then 0xFF#8 else 0x00#8] .ok)
      replies := s.replies.drop (3 * s.cfg.ndev)
      draws := s.draws + 3 * s.cfg.ndev
      seq := .idle
      status := { s.status with busy := false, done := true } }

/-- SETPINS with a valid string and an answering bus (41_port_controller R176, R177): one burst to 0x84 with the three
bytes whose bit `7 - j` is 1 exactly where character `8g + j` is '1', then DONE. -/
def Obligations.SetpinsWritesTheThreeBytes : Prop :=
  ∀ (s : State) (b : Fin 3 → Byte), s.atStart .setpins → s.pinlen = 24#6 →
    (∀ (g : Fin 3) (j : Fin 8), s.pinstr[8 * g.val + j.val]'(by omega)
      = if (b g).getLsbD (7 - j.val) then 0x31#8 else 0x30#8) →
    s.busOk s.cfg.ndev →
    ∃ n, execTimes .setpins n s = .next { s with
      trace := s.trace ++ s.cfg.devices.map (fun d => .busWrite d.idx d.addr [0x84#8, b 0, b 1, b 2] .ok)
      replies := s.replies.drop s.cfg.ndev
      draws := s.draws + s.cfg.ndev
      seq := .idle
      status := { s.status with busy := false, done := true } }

/-- SETPINS rejects a length other than 24, and any other character among the first 24, before any call
(41_port_controller R176). -/
def Obligations.SetpinsRejectsABadString : Prop :=
  ∀ s : State, s.atStart .setpins →
    (s.pinlen ≠ 24#6 ∨ ∃ k : Fin 24, s.pinstr[k.val] ≠ 0x30#8 ∧ s.pinstr[k.val] ≠ 0x31#8) →
    ∃ n, execTimes .setpins n s = .next (s.failed .invalidArgument 0)

/-- 41_port_controller R178: the string of a 24-bit value's bits, most significant first in each group, yields the
value's three bytes. -/
def Obligations.PinStringRoundTrip : Prop :=
  ∀ (pinstr : Vector Byte 32) (b : Fin 3 → Byte),
    (∀ (g : Fin 3) (j : Fin 8), pinstr[8 * g.val + j.val]'(by omega)
      = if (b g).getLsbD (7 - j.val) then 0x31#8 else 0x30#8) →
    ∀ g, pinByte pinstr g = b g

/-- DUMP with an answering bus whose reads keep their contract (41_port_controller R180): per device the four pointer
writes, each followed by its read, and `DUMP[12d + 3g + p]` holds byte `p` of the read of group `g`; entries not read
keep their values. -/
def Obligations.DumpReadsEveryGroup : Prop :=
  ∀ (s : State) (bytes : Nat → Fin 3 → Byte), s.atStart .dump →
    (∀ k, k < 4 * s.cfg.ndev → (∃ data, s.replyAt (2 * k) 0 = .returns .ok data)
      ∧ s.replyAt (2 * k + 1) 3 = .returns .ok [bytes k 0, bytes k 1, bytes k 2]) →
    ∃ n t, execTimes .dump n s = .next t
      ∧ t.trace = s.trace ++ s.cfg.devices.flatMap (fun d => [0, 1, 2, 3].flatMap fun g =>
          [.busWrite d.idx d.addr [0x80#8 + BitVec.ofNat 8 (4 * g)] .ok,
           .busRead d.idx d.addr 3 .ok [bytes (4 * d.idx.val + g) 0, bytes (4 * d.idx.val + g) 1, bytes (4 * d.idx.val + g) 2]])
      ∧ (∀ (k : Fin 24), k.val < 12 * s.cfg.ndev → t.dump[k] = bytes (k.val / 3) ⟨k.val % 3, by omega⟩)
      ∧ (∀ (k : Fin 24), 12 * s.cfg.ndev ≤ k.val → t.dump[k] = s.dump[k])
      ∧ t.seq = .idle ∧ t.status = { s.status with busy := false, done := true }
      ∧ t.cmd = s.cmd ∧ t.delay = s.delay ∧ t.result = s.result ∧ t.pinlen = s.pinlen ∧ t.pinstr = s.pinstr ∧ t.cfg = s.cfg
      ∧ t.replies = s.replies.drop (8 * s.cfg.ndev)

/-- REGADDR of a valid port (40_register_map_and_bus R142): RESULT is `AI*0x80 + FAM*4 + PORT`, DONE is 1, no call is
made and nothing else changes. -/
def Obligations.RegaddrQueriesTheRegisterMap : Prop :=
  ∀ (p : Nat) (f : Family) (m : AddrMode) (s : State), p < 3 → s.atStart (.regaddr p f m) →
    ∃ n, execTimes (.regaddr p f m) n s = .next { s with
      result := BitVec.ofNat 8 (0x80 * m.toBit.toNat + 4 * f.toBits.toNat + p)
      seq := .idle
      status := { s.status with busy := false, done := true } }

/-- MOVE1 with an answering bus and clock (42_pattern_engine R210), for both values of MOVE1_HANDOFF: the resting level,
the walk over ports 0, 1, 2 with its 24 Sleeps and handoffs, the resting level, then DONE. -/
def Obligations.Move1WalksEveryPin : Prop :=
  ∀ (m : Mode) (s : State), s.atStart (.move1 m) → s.busOk (32 * s.cfg.ndev) → s.wakes 24 →
    ∃ n, execTimes (.move1 m) n s = .next (s.afterOk (move1Calls s.cfg m))

/-- MOVE1IN8 with an answering bus and clock (42_pattern_engine R215): clearing 01 02 04 08 10 20 40 80, lighting FE FD FB
F7 EF DF BF 7F, each to ports 0, 1, 2 with one Sleep, between the resting level's writes, then DONE. -/
def Obligations.Move1in8WalksInUnison : Prop :=
  ∀ (m : Mode) (s : State), s.atStart (.move1in8 m) → s.busOk (30 * s.cfg.ndev) → s.wakes 8 →
    ∃ n, execTimes (.move1in8 m) n s = .next (s.afterOk (match m with
      | .clearing => framedCalls s.cfg 0x00#8 [0x01#8, 0x02#8, 0x04#8, 0x08#8, 0x10#8, 0x20#8, 0x40#8, 0x80#8]
      | .lighting => framedCalls s.cfg 0xFF#8 [0xFE#8, 0xFD#8, 0xFB#8, 0xF7#8, 0xEF#8, 0xDF#8, 0xBF#8, 0x7F#8]))

/-- MOVE1IN4 with an answering bus and clock (42_pattern_engine R220): clearing 11 22 44 88, lighting EE DD BB 77. -/
def Obligations.Move1in4WalksPairs : Prop :=
  ∀ (m : Mode) (s : State), s.atStart (.move1in4 m) → s.busOk (18 * s.cfg.ndev) → s.wakes 4 →
    ∃ n, execTimes (.move1in4 m) n s = .next (s.afterOk (match m with
      | .clearing => framedCalls s.cfg 0x00#8 [0x11#8, 0x22#8, 0x44#8, 0x88#8]
      | .lighting => framedCalls s.cfg 0xFF#8 [0xEE#8, 0xDD#8, 0xBB#8, 0x77#8]))

/-- INCR1IN8 with an answering bus and clock (42_pattern_engine R225): clearing 01 03 07 0F 1F 3F 7F FF over rest 00,
lighting FE FC F8 F0 E0 C0 80 00 over rest FF. -/
def Obligations.Incr1in8Fills : Prop :=
  ∀ (m : Mode) (s : State), s.atStart (.incr1in8 m) → s.busOk (30 * s.cfg.ndev) → s.wakes 8 →
    ∃ n, execTimes (.incr1in8 m) n s = .next (s.afterOk (match m with
      | .clearing => framedCalls s.cfg 0x00#8 [0x01#8, 0x03#8, 0x07#8, 0x0F#8, 0x1F#8, 0x3F#8, 0x7F#8, 0xFF#8]
      | .lighting => framedCalls s.cfg 0xFF#8 [0xFE#8, 0xFC#8, 0xF8#8, 0xF0#8, 0xE0#8, 0xC0#8, 0x80#8, 0x00#8]))

/-- DECR1IN8 with an answering bus and clock (42_pattern_engine R230, 90_conflicts C4), the literal behaviour: clearing FE
FC F8 F0 E0 C0 80 00 over rest FF, lighting 01 03 07 0F 1F 3F 7F FF over rest 00. -/
def Obligations.Decr1in8IsTheLiteralFill : Prop :=
  ∀ (m : Mode) (s : State), s.atStart (.decr1in8 m) → s.busOk (30 * s.cfg.ndev) → s.wakes 8 →
    ∃ n, execTimes (.decr1in8 m) n s = .next (s.afterOk (match m with
      | .clearing => framedCalls s.cfg 0xFF#8 [0xFE#8, 0xFC#8, 0xF8#8, 0xF0#8, 0xE0#8, 0xC0#8, 0x80#8, 0x00#8]
      | .lighting => framedCalls s.cfg 0x00#8 [0x01#8, 0x03#8, 0x07#8, 0x0F#8, 0x1F#8, 0x3F#8, 0x7F#8, 0xFF#8]))

/-- ALTERNATE with an answering bus and clock (42_pattern_engine R235): 0xAA to all ports, Sleep, 0x55, Sleep, then DONE;
no resting level. -/
def Obligations.AlternateToggles : Prop :=
  ∀ s : State, s.atStart .alternate → s.busOk (6 * s.cfg.ndev) → s.wakes 2 →
    ∃ n, execTimes .alternate n s = .next (s.afterOk (frameCalls s.cfg [0xAA#8, 0x55#8]))

/-- The state with PS.mode flipped. -/
def Sys2Proof.Claims.flipPattern (s : State) : State :=
  match s.seq with
  | .idle => s
  | .running run => { s with seq := .running { run with ps := run.ps.map fun p => { p with mode := flipMode p.mode } } }

/-- 42_pattern_engine R230: DECR1IN8 in one mode takes, step for step and for every answer of the transport, the steps of
INCR1IN8 in the other mode. -/
def Obligations.DecrIsIncrWithTheModeFlipped : Prop :=
  ∀ (m m' : Mode) (s : State) (n : Nat),
    (∀ t, execTimes (.decr1in8 m) n s = .next t →
      execTimes (.incr1in8 m') n (Sys2Proof.Claims.flipPattern s) = .next (Sys2Proof.Claims.flipPattern t))
    ∧ (∀ t, execTimes (.incr1in8 m) n s = .next t →
      execTimes (.decr1in8 m') n (Sys2Proof.Claims.flipPattern s) = .next (Sys2Proof.Claims.flipPattern t))

/-- 42_pattern_engine R204: in INCR1IN8 and DECR1IN8, in either mode, PS.acc is `2^(i+1) - 1` when the frame of step
`i` sleeps: the inversion is never stored back. -/
def Obligations.AccumulatorHoldsTheFill : Prop :=
  ∀ (s : State) (run : Run) (p : PatternState) (m : Mode), s.inv → s.seq = .running run → run.ps = some p →
    decodeWord run.cmd = .ok (.incr1in8 m) ∨ decodeWord run.cmd = .ok (.decr1in8 m) →
    (program s.cfg (.incr1in8 m))[run.pos]? = some .sleep →
    p.acc.toNat = 2 ^ (p.i.val + 1) - 1 ∧ p.mode = m

/-- The bus writes any command makes, at any statement (20_memory R72, R81, 40_register_map_and_bus R144, R148): a pointer
write to an auto-increment group address; one byte to an output register by its non-auto-increment address; or three
bytes to 0x84 or 0x8C. Reads are of 3 bytes. That the event of a read that did not return ok carries no data is the
MODEL's choice (log entry 18). -/
def Obligations.BusTransactionsHaveTheseShapes : Prop :=
  ∀ (i : Instr) (s t : State), exec i s = .next t →
    (∀ d a bytes r, t.trace = s.trace ++ [.busWrite d a bytes r] →
      (∃ x, bytes = [x] ∧ (x = 0x80#8 ∨ x = 0x84#8 ∨ x = 0x88#8 ∨ x = 0x8C#8) ∧ i = .dump)
      ∨ (∃ x b, bytes = [x, b] ∧ (x = 0x04#8 ∨ x = 0x05#8 ∨ x = 0x06#8))
      ∨ (∃ x b0 b1 b2, bytes = [x, b0, b1, b2] ∧ ((x = 0x84#8 ∧ i = .setpins) ∨ (x = 0x8C#8 ∧ i = .cfgout))))
    ∧ (∀ d a n r data, t.trace = s.trace ++ [.busRead d a n r data] →
      i = .dump ∧ n = 3 ∧ (r = .ok → data.length = 3) ∧ (r ≠ .ok → data = []))
    ∧ (∀ n, t.trace = s.trace ++ [.sleep n] → n = s.delay)

/-- Whether an event is a bus write. -/
def Sys2Proof.Claims.isBusWrite : Event → Bool
  | .busWrite _ _ _ _ => true
  | _ => false

/-- Whether an event is a Sleep. -/
def Sys2Proof.Claims.isSleep : Event → Bool
  | .sleep _ => true
  | _ => false

/-- How many WritePort operations and how many Sleeps 42_pattern_engine R240 gives a pattern. -/
def Sys2Proof.Claims.patternCounts (h : Handoff) : Instr → Option (Nat × Nat)
  | .move1 _ => some (match h with
    | .restore => (32, 24)
    | .none => (30, 24))
  | .move1in8 _ => some (30, 8)
  | .move1in4 _ => some (18, 4)
  | .incr1in8 _ => some (30, 8)
  | .decr1in8 _ => some (30, 8)
  | .alternate => some (6, 2)
  | _ => none

/-- 42_pattern_engine R240: a pattern that completes without error, whatever its run, made `W` WritePort operations of
`NDEV` calls each, and `S` Sleep calls. -/
def Obligations.PatternCallCounts : Prop :=
  ∀ (i : Instr) (s t : State) (n W S : Nat), Sys2Proof.Claims.patternCounts s.cfg.handoff i = some (W, S) →
    s.atStart i → execTimes i n s = .next t → t.seq = .idle → t.status.done = true →
    ∃ es, t.trace = s.trace ++ es ∧ es.countP Sys2Proof.Claims.isBusWrite = W * s.cfg.ndev
      ∧ es.countP Sys2Proof.Claims.isSleep = S

/-- 60_exceptions R263: which commands can raise which errors once they run. InvalidArgument: WRPORT and REGADDR of an
invalid port, and SETPINS of an invalid pin string. TransportError and DeviceNotFound: every command but REGADDR, and
then only for a bus call that returned so. IllegalCommand: none (it is raised when the word is latched). -/
def Obligations.CommandsRaiseTheirErrorsOnly : Prop :=
  ∀ (i : Instr) (s t : State) (run : Run), s.seq = .running run → exec i s = .next t →
    s.status.err = false → t.status.err = true →
    (t.status.ecode = .invalidArgument ∧ t.status.edev = 0
      ∧ ((∃ p b, i = .wrport p b ∧ ¬ p < 3) ∨ (∃ p f m, i = .regaddr p f m ∧ ¬ p < 3)
        ∨ (i = .setpins ∧ (s.pinlen ≠ 24#6 ∨ ∃ k : Fin 24, s.pinstr[k.val] ≠ 0x30#8 ∧ s.pinstr[k.val] ≠ 0x31#8))))
    ∨ (t.status.ecode = .transportError ∧ run.result = .ioError ∧ ∀ p f m, i ≠ .regaddr p f m)
    ∨ (t.status.ecode = .deviceNotFound ∧ run.result = .noAck ∧ ∀ p f m, i ≠ .regaddr p f m)
end

