-- ==== Sys2Proof/Laws/State.lean ====
section
/-! SUPPORT. Laws/State.lean: what each named update does to each field, one lemma a field. -/

namespace Sys2Proof.Machine

/-! ### State.raiseError -/

@[simp] theorem State.raiseError_seq (code : ECode) (dev : Fin 2) (s : State) :
    (State.raiseError code dev s).seq = .idle := rfl
@[simp] theorem State.raiseError_cmd (code : ECode) (dev : Fin 2) (s : State) :
    (State.raiseError code dev s).cmd = s.cmd := rfl
@[simp] theorem State.raiseError_delay (code : ECode) (dev : Fin 2) (s : State) :
    (State.raiseError code dev s).delay = s.delay := rfl
@[simp] theorem State.raiseError_status (code : ECode) (dev : Fin 2) (s : State) :
    (State.raiseError code dev s).status = s.status.errored code dev := rfl
@[simp] theorem State.raiseError_result (code : ECode) (dev : Fin 2) (s : State) :
    (State.raiseError code dev s).result = s.result := rfl
@[simp] theorem State.raiseError_pinlen (code : ECode) (dev : Fin 2) (s : State) :
    (State.raiseError code dev s).pinlen = s.pinlen := rfl
@[simp] theorem State.raiseError_pinstr (code : ECode) (dev : Fin 2) (s : State) :
    (State.raiseError code dev s).pinstr = s.pinstr := rfl
@[simp] theorem State.raiseError_dump (code : ECode) (dev : Fin 2) (s : State) :
    (State.raiseError code dev s).dump = s.dump := rfl
@[simp] theorem State.raiseError_cfg (code : ECode) (dev : Fin 2) (s : State) :
    (State.raiseError code dev s).cfg = s.cfg := rfl
@[simp] theorem State.raiseError_trace (code : ECode) (dev : Fin 2) (s : State) :
    (State.raiseError code dev s).trace = s.trace := rfl
@[simp] theorem State.raiseError_turns (code : ECode) (dev : Fin 2) (s : State) :
    (State.raiseError code dev s).turns = s.turns := rfl
@[simp] theorem State.raiseError_host (code : ECode) (dev : Fin 2) (s : State) :
    (State.raiseError code dev s).host = s.host := rfl
@[simp] theorem State.raiseError_replies (code : ECode) (dev : Fin 2) (s : State) :
    (State.raiseError code dev s).replies = s.replies := rfl
@[simp] theorem State.raiseError_clock (code : ECode) (dev : Fin 2) (s : State) :
    (State.raiseError code dev s).clock = s.clock := rfl
@[simp] theorem State.raiseError_draws (code : ECode) (dev : Fin 2) (s : State) :
    (State.raiseError code dev s).draws = s.draws := rfl
@[simp] theorem State.raiseError_ticks (code : ECode) (dev : Fin 2) (s : State) :
    (State.raiseError code dev s).ticks = s.ticks := rfl

/-! ### State.complete -/

@[simp] theorem State.complete_seq (s : State) :
    (State.complete s).seq = .idle := rfl
@[simp] theorem State.complete_cmd (s : State) :
    (State.complete s).cmd = s.cmd := rfl
@[simp] theorem State.complete_delay (s : State) :
    (State.complete s).delay = s.delay := rfl
@[simp] theorem State.complete_status (s : State) :
    (State.complete s).status = s.status.completed := rfl
@[simp] theorem State.complete_result (s : State) :
    (State.complete s).result = s.result := rfl
@[simp] theorem State.complete_pinlen (s : State) :
    (State.complete s).pinlen = s.pinlen := rfl
@[simp] theorem State.complete_pinstr (s : State) :
    (State.complete s).pinstr = s.pinstr := rfl
@[simp] theorem State.complete_dump (s : State) :
    (State.complete s).dump = s.dump := rfl
@[simp] theorem State.complete_cfg (s : State) :
    (State.complete s).cfg = s.cfg := rfl
@[simp] theorem State.complete_trace (s : State) :
    (State.complete s).trace = s.trace := rfl
@[simp] theorem State.complete_turns (s : State) :
    (State.complete s).turns = s.turns := rfl
@[simp] theorem State.complete_host (s : State) :
    (State.complete s).host = s.host := rfl
@[simp] theorem State.complete_replies (s : State) :
    (State.complete s).replies = s.replies := rfl
@[simp] theorem State.complete_clock (s : State) :
    (State.complete s).clock = s.clock := rfl
@[simp] theorem State.complete_draws (s : State) :
    (State.complete s).draws = s.draws := rfl
@[simp] theorem State.complete_ticks (s : State) :
    (State.complete s).ticks = s.ticks := rfl

/-! ### State.advance -/

@[simp] theorem State.advance_seq (run : Run) (s : State) :
    (State.advance run s).seq = .running { run with pos := run.pos + 1 } := rfl
@[simp] theorem State.advance_cmd (run : Run) (s : State) :
    (State.advance run s).cmd = s.cmd := rfl
@[simp] theorem State.advance_delay (run : Run) (s : State) :
    (State.advance run s).delay = s.delay := rfl
@[simp] theorem State.advance_status (run : Run) (s : State) :
    (State.advance run s).status = s.status := rfl
@[simp] theorem State.advance_result (run : Run) (s : State) :
    (State.advance run s).result = s.result := rfl
@[simp] theorem State.advance_pinlen (run : Run) (s : State) :
    (State.advance run s).pinlen = s.pinlen := rfl
@[simp] theorem State.advance_pinstr (run : Run) (s : State) :
    (State.advance run s).pinstr = s.pinstr := rfl
@[simp] theorem State.advance_dump (run : Run) (s : State) :
    (State.advance run s).dump = s.dump := rfl
@[simp] theorem State.advance_cfg (run : Run) (s : State) :
    (State.advance run s).cfg = s.cfg := rfl
@[simp] theorem State.advance_trace (run : Run) (s : State) :
    (State.advance run s).trace = s.trace := rfl
@[simp] theorem State.advance_turns (run : Run) (s : State) :
    (State.advance run s).turns = s.turns := rfl
@[simp] theorem State.advance_host (run : Run) (s : State) :
    (State.advance run s).host = s.host := rfl
@[simp] theorem State.advance_replies (run : Run) (s : State) :
    (State.advance run s).replies = s.replies := rfl
@[simp] theorem State.advance_clock (run : Run) (s : State) :
    (State.advance run s).clock = s.clock := rfl
@[simp] theorem State.advance_draws (run : Run) (s : State) :
    (State.advance run s).draws = s.draws := rfl
@[simp] theorem State.advance_ticks (run : Run) (s : State) :
    (State.advance run s).ticks = s.ticks := rfl

/-! ### State.callReturned -/

@[simp] theorem State.callReturned_seq (e : Event) (r : CallResult) (data : List Byte) (run : Run) (s : State) :
    (State.callReturned e r data run s).seq = .running { run with pos := run.pos + 1, result := r, data := data } := rfl
@[simp] theorem State.callReturned_cmd (e : Event) (r : CallResult) (data : List Byte) (run : Run) (s : State) :
    (State.callReturned e r data run s).cmd = s.cmd := rfl
@[simp] theorem State.callReturned_delay (e : Event) (r : CallResult) (data : List Byte) (run : Run) (s : State) :
    (State.callReturned e r data run s).delay = s.delay := rfl
@[simp] theorem State.callReturned_status (e : Event) (r : CallResult) (data : List Byte) (run : Run) (s : State) :
    (State.callReturned e r data run s).status = s.status := rfl
@[simp] theorem State.callReturned_result (e : Event) (r : CallResult) (data : List Byte) (run : Run) (s : State) :
    (State.callReturned e r data run s).result = s.result := rfl
@[simp] theorem State.callReturned_pinlen (e : Event) (r : CallResult) (data : List Byte) (run : Run) (s : State) :
    (State.callReturned e r data run s).pinlen = s.pinlen := rfl
@[simp] theorem State.callReturned_pinstr (e : Event) (r : CallResult) (data : List Byte) (run : Run) (s : State) :
    (State.callReturned e r data run s).pinstr = s.pinstr := rfl
@[simp] theorem State.callReturned_dump (e : Event) (r : CallResult) (data : List Byte) (run : Run) (s : State) :
    (State.callReturned e r data run s).dump = s.dump := rfl
@[simp] theorem State.callReturned_cfg (e : Event) (r : CallResult) (data : List Byte) (run : Run) (s : State) :
    (State.callReturned e r data run s).cfg = s.cfg := rfl
@[simp] theorem State.callReturned_trace (e : Event) (r : CallResult) (data : List Byte) (run : Run) (s : State) :
    (State.callReturned e r data run s).trace = s.trace ++ [e] := rfl
@[simp] theorem State.callReturned_turns (e : Event) (r : CallResult) (data : List Byte) (run : Run) (s : State) :
    (State.callReturned e r data run s).turns = s.turns := rfl
@[simp] theorem State.callReturned_host (e : Event) (r : CallResult) (data : List Byte) (run : Run) (s : State) :
    (State.callReturned e r data run s).host = s.host := rfl
@[simp] theorem State.callReturned_replies (e : Event) (r : CallResult) (data : List Byte) (run : Run) (s : State) :
    (State.callReturned e r data run s).replies = s.replies := rfl
@[simp] theorem State.callReturned_clock (e : Event) (r : CallResult) (data : List Byte) (run : Run) (s : State) :
    (State.callReturned e r data run s).clock = s.clock := rfl
@[simp] theorem State.callReturned_draws (e : Event) (r : CallResult) (data : List Byte) (run : Run) (s : State) :
    (State.callReturned e r data run s).draws = s.draws := rfl
@[simp] theorem State.callReturned_ticks (e : Event) (r : CallResult) (data : List Byte) (run : Run) (s : State) :
    (State.callReturned e r data run s).ticks = s.ticks := rfl

/-! ### State.dropReply -/

@[simp] theorem State.dropReply_seq (s : State) :
    (State.dropReply s).seq = s.seq := rfl
@[simp] theorem State.dropReply_cmd (s : State) :
    (State.dropReply s).cmd = s.cmd := rfl
@[simp] theorem State.dropReply_delay (s : State) :
    (State.dropReply s).delay = s.delay := rfl
@[simp] theorem State.dropReply_status (s : State) :
    (State.dropReply s).status = s.status := rfl
@[simp] theorem State.dropReply_result (s : State) :
    (State.dropReply s).result = s.result := rfl
@[simp] theorem State.dropReply_pinlen (s : State) :
    (State.dropReply s).pinlen = s.pinlen := rfl
@[simp] theorem State.dropReply_pinstr (s : State) :
    (State.dropReply s).pinstr = s.pinstr := rfl
@[simp] theorem State.dropReply_dump (s : State) :
    (State.dropReply s).dump = s.dump := rfl
@[simp] theorem State.dropReply_cfg (s : State) :
    (State.dropReply s).cfg = s.cfg := rfl
@[simp] theorem State.dropReply_trace (s : State) :
    (State.dropReply s).trace = s.trace := rfl
@[simp] theorem State.dropReply_turns (s : State) :
    (State.dropReply s).turns = s.turns := rfl
@[simp] theorem State.dropReply_host (s : State) :
    (State.dropReply s).host = s.host := rfl
@[simp] theorem State.dropReply_replies (s : State) :
    (State.dropReply s).replies = s.replies.tail := rfl
@[simp] theorem State.dropReply_clock (s : State) :
    (State.dropReply s).clock = s.clock := rfl
@[simp] theorem State.dropReply_draws (s : State) :
    (State.dropReply s).draws = s.draws + 1 := rfl
@[simp] theorem State.dropReply_ticks (s : State) :
    (State.dropReply s).ticks = s.ticks := rfl

/-! ### State.dropClock -/

@[simp] theorem State.dropClock_seq (s : State) :
    (State.dropClock s).seq = s.seq := rfl
@[simp] theorem State.dropClock_cmd (s : State) :
    (State.dropClock s).cmd = s.cmd := rfl
@[simp] theorem State.dropClock_delay (s : State) :
    (State.dropClock s).delay = s.delay := rfl
@[simp] theorem State.dropClock_status (s : State) :
    (State.dropClock s).status = s.status := rfl
@[simp] theorem State.dropClock_result (s : State) :
    (State.dropClock s).result = s.result := rfl
@[simp] theorem State.dropClock_pinlen (s : State) :
    (State.dropClock s).pinlen = s.pinlen := rfl
@[simp] theorem State.dropClock_pinstr (s : State) :
    (State.dropClock s).pinstr = s.pinstr := rfl
@[simp] theorem State.dropClock_dump (s : State) :
    (State.dropClock s).dump = s.dump := rfl
@[simp] theorem State.dropClock_cfg (s : State) :
    (State.dropClock s).cfg = s.cfg := rfl
@[simp] theorem State.dropClock_trace (s : State) :
    (State.dropClock s).trace = s.trace := rfl
@[simp] theorem State.dropClock_turns (s : State) :
    (State.dropClock s).turns = s.turns := rfl
@[simp] theorem State.dropClock_host (s : State) :
    (State.dropClock s).host = s.host := rfl
@[simp] theorem State.dropClock_replies (s : State) :
    (State.dropClock s).replies = s.replies := rfl
@[simp] theorem State.dropClock_clock (s : State) :
    (State.dropClock s).clock = s.clock.tail := rfl
@[simp] theorem State.dropClock_draws (s : State) :
    (State.dropClock s).draws = s.draws := rfl
@[simp] theorem State.dropClock_ticks (s : State) :
    (State.dropClock s).ticks = s.ticks + 1 := rfl

/-! ### State.log -/

@[simp] theorem State.log_seq (e : Event) (s : State) :
    (State.log e s).seq = s.seq := rfl
@[simp] theorem State.log_cmd (e : Event) (s : State) :
    (State.log e s).cmd = s.cmd := rfl
@[simp] theorem State.log_delay (e : Event) (s : State) :
    (State.log e s).delay = s.delay := rfl
@[simp] theorem State.log_status (e : Event) (s : State) :
    (State.log e s).status = s.status := rfl
@[simp] theorem State.log_result (e : Event) (s : State) :
    (State.log e s).result = s.result := rfl
@[simp] theorem State.log_pinlen (e : Event) (s : State) :
    (State.log e s).pinlen = s.pinlen := rfl
@[simp] theorem State.log_pinstr (e : Event) (s : State) :
    (State.log e s).pinstr = s.pinstr := rfl
@[simp] theorem State.log_dump (e : Event) (s : State) :
    (State.log e s).dump = s.dump := rfl
@[simp] theorem State.log_cfg (e : Event) (s : State) :
    (State.log e s).cfg = s.cfg := rfl
@[simp] theorem State.log_trace (e : Event) (s : State) :
    (State.log e s).trace = s.trace ++ [e] := rfl
@[simp] theorem State.log_turns (e : Event) (s : State) :
    (State.log e s).turns = s.turns := rfl
@[simp] theorem State.log_host (e : Event) (s : State) :
    (State.log e s).host = s.host := rfl
@[simp] theorem State.log_replies (e : Event) (s : State) :
    (State.log e s).replies = s.replies := rfl
@[simp] theorem State.log_clock (e : Event) (s : State) :
    (State.log e s).clock = s.clock := rfl
@[simp] theorem State.log_draws (e : Event) (s : State) :
    (State.log e s).draws = s.draws := rfl
@[simp] theorem State.log_ticks (e : Event) (s : State) :
    (State.log e s).ticks = s.ticks := rfl

/-! ### State.blockReset -/

@[simp] theorem State.blockReset_seq (cfg : Params) (s : State) :
    (State.blockReset cfg s).seq = .idle := rfl
@[simp] theorem State.blockReset_cmd (cfg : Params) (s : State) :
    (State.blockReset cfg s).cmd = 0#32 := rfl
@[simp] theorem State.blockReset_delay (cfg : Params) (s : State) :
    (State.blockReset cfg s).delay = 0#32 := rfl
@[simp] theorem State.blockReset_status (cfg : Params) (s : State) :
    (State.blockReset cfg s).status = Status.reset := rfl
@[simp] theorem State.blockReset_result (cfg : Params) (s : State) :
    (State.blockReset cfg s).result = 0#8 := rfl
@[simp] theorem State.blockReset_pinlen (cfg : Params) (s : State) :
    (State.blockReset cfg s).pinlen = 0#6 := rfl
@[simp] theorem State.blockReset_pinstr (cfg : Params) (s : State) :
    (State.blockReset cfg s).pinstr = Vector.replicate 32 0#8 := rfl
@[simp] theorem State.blockReset_dump (cfg : Params) (s : State) :
    (State.blockReset cfg s).dump = Vector.replicate 24 0#8 := rfl
@[simp] theorem State.blockReset_cfg (cfg : Params) (s : State) :
    (State.blockReset cfg s).cfg = cfg := rfl
@[simp] theorem State.blockReset_trace (cfg : Params) (s : State) :
    (State.blockReset cfg s).trace = s.trace := rfl
@[simp] theorem State.blockReset_turns (cfg : Params) (s : State) :
    (State.blockReset cfg s).turns = s.turns := rfl
@[simp] theorem State.blockReset_host (cfg : Params) (s : State) :
    (State.blockReset cfg s).host = s.host := rfl
@[simp] theorem State.blockReset_replies (cfg : Params) (s : State) :
    (State.blockReset cfg s).replies = dropHungReply s.replies := rfl
@[simp] theorem State.blockReset_clock (cfg : Params) (s : State) :
    (State.blockReset cfg s).clock = dropHungClock s.clock := rfl
@[simp] theorem State.blockReset_draws (cfg : Params) (s : State) :
    (State.blockReset cfg s).draws = s.draws + 1 := rfl
@[simp] theorem State.blockReset_ticks (cfg : Params) (s : State) :
    (State.blockReset cfg s).ticks = s.ticks + 1 := rfl

/-! ### State.afterBus -/

@[simp] theorem State.afterBus_seq (e : Event) (s : State) :
    (State.afterBus e s).seq = s.seq := rfl
@[simp] theorem State.afterBus_cmd (e : Event) (s : State) :
    (State.afterBus e s).cmd = s.cmd := rfl
@[simp] theorem State.afterBus_delay (e : Event) (s : State) :
    (State.afterBus e s).delay = s.delay := rfl
@[simp] theorem State.afterBus_status (e : Event) (s : State) :
    (State.afterBus e s).status = s.status := rfl
@[simp] theorem State.afterBus_result (e : Event) (s : State) :
    (State.afterBus e s).result = s.result := rfl
@[simp] theorem State.afterBus_pinlen (e : Event) (s : State) :
    (State.afterBus e s).pinlen = s.pinlen := rfl
@[simp] theorem State.afterBus_pinstr (e : Event) (s : State) :
    (State.afterBus e s).pinstr = s.pinstr := rfl
@[simp] theorem State.afterBus_dump (e : Event) (s : State) :
    (State.afterBus e s).dump = s.dump := rfl
@[simp] theorem State.afterBus_cfg (e : Event) (s : State) :
    (State.afterBus e s).cfg = s.cfg := rfl
@[simp] theorem State.afterBus_trace (e : Event) (s : State) :
    (State.afterBus e s).trace = s.trace ++ [e] := rfl
@[simp] theorem State.afterBus_turns (e : Event) (s : State) :
    (State.afterBus e s).turns = s.turns := rfl
@[simp] theorem State.afterBus_host (e : Event) (s : State) :
    (State.afterBus e s).host = s.host := rfl
@[simp] theorem State.afterBus_replies (e : Event) (s : State) :
    (State.afterBus e s).replies = s.replies.tail := rfl
@[simp] theorem State.afterBus_clock (e : Event) (s : State) :
    (State.afterBus e s).clock = s.clock := rfl
@[simp] theorem State.afterBus_draws (e : Event) (s : State) :
    (State.afterBus e s).draws = s.draws + 1 := rfl
@[simp] theorem State.afterBus_ticks (e : Event) (s : State) :
    (State.afterBus e s).ticks = s.ticks := rfl

/-! ### State.afterSleep -/

@[simp] theorem State.afterSleep_seq (s : State) :
    (State.afterSleep s).seq = s.seq := rfl
@[simp] theorem State.afterSleep_cmd (s : State) :
    (State.afterSleep s).cmd = s.cmd := rfl
@[simp] theorem State.afterSleep_delay (s : State) :
    (State.afterSleep s).delay = s.delay := rfl
@[simp] theorem State.afterSleep_status (s : State) :
    (State.afterSleep s).status = s.status := rfl
@[simp] theorem State.afterSleep_result (s : State) :
    (State.afterSleep s).result = s.result := rfl
@[simp] theorem State.afterSleep_pinlen (s : State) :
    (State.afterSleep s).pinlen = s.pinlen := rfl
@[simp] theorem State.afterSleep_pinstr (s : State) :
    (State.afterSleep s).pinstr = s.pinstr := rfl
@[simp] theorem State.afterSleep_dump (s : State) :
    (State.afterSleep s).dump = s.dump := rfl
@[simp] theorem State.afterSleep_cfg (s : State) :
    (State.afterSleep s).cfg = s.cfg := rfl
@[simp] theorem State.afterSleep_trace (s : State) :
    (State.afterSleep s).trace = s.trace ++ [.sleep s.delay] := rfl
@[simp] theorem State.afterSleep_turns (s : State) :
    (State.afterSleep s).turns = s.turns := rfl
@[simp] theorem State.afterSleep_host (s : State) :
    (State.afterSleep s).host = s.host := rfl
@[simp] theorem State.afterSleep_replies (s : State) :
    (State.afterSleep s).replies = s.replies := rfl
@[simp] theorem State.afterSleep_clock (s : State) :
    (State.afterSleep s).clock = s.clock.tail := rfl
@[simp] theorem State.afterSleep_draws (s : State) :
    (State.afterSleep s).draws = s.draws := rfl
@[simp] theorem State.afterSleep_ticks (s : State) :
    (State.afterSleep s).ticks = s.ticks + 1 := rfl

/-! ### Status.clearForLatch -/

@[simp] theorem Status.clearForLatch_busy (st : Status) :
    (st.clearForLatch).busy = st.busy := rfl
@[simp] theorem Status.clearForLatch_done (st : Status) :
    (st.clearForLatch).done = false := rfl
@[simp] theorem Status.clearForLatch_err (st : Status) :
    (st.clearForLatch).err = false := rfl
@[simp] theorem Status.clearForLatch_outcfg (st : Status) :
    (st.clearForLatch).outcfg = st.outcfg := rfl
@[simp] theorem Status.clearForLatch_ecode (st : Status) :
    (st.clearForLatch).ecode = .none := rfl
@[simp] theorem Status.clearForLatch_edev (st : Status) :
    (st.clearForLatch).edev = 0 := rfl

/-! ### Status.started -/

@[simp] theorem Status.started_busy (st : Status) :
    (st.started).busy = true := rfl
@[simp] theorem Status.started_done (st : Status) :
    (st.started).done = st.done := rfl
@[simp] theorem Status.started_err (st : Status) :
    (st.started).err = st.err := rfl
@[simp] theorem Status.started_outcfg (st : Status) :
    (st.started).outcfg = st.outcfg := rfl
@[simp] theorem Status.started_ecode (st : Status) :
    (st.started).ecode = st.ecode := rfl
@[simp] theorem Status.started_edev (st : Status) :
    (st.started).edev = st.edev := rfl

/-! ### Status.completed -/

@[simp] theorem Status.completed_busy (st : Status) :
    (st.completed).busy = false := rfl
@[simp] theorem Status.completed_done (st : Status) :
    (st.completed).done = true := rfl
@[simp] theorem Status.completed_err (st : Status) :
    (st.completed).err = st.err := rfl
@[simp] theorem Status.completed_outcfg (st : Status) :
    (st.completed).outcfg = st.outcfg := rfl
@[simp] theorem Status.completed_ecode (st : Status) :
    (st.completed).ecode = st.ecode := rfl
@[simp] theorem Status.completed_edev (st : Status) :
    (st.completed).edev = st.edev := rfl

/-! ### Status.errored -/

@[simp] theorem Status.errored_busy (code : ECode) (dev : Fin 2) (st : Status) :
    (Status.errored code dev st).busy = false := rfl
@[simp] theorem Status.errored_done (code : ECode) (dev : Fin 2) (st : Status) :
    (Status.errored code dev st).done = false := rfl
@[simp] theorem Status.errored_err (code : ECode) (dev : Fin 2) (st : Status) :
    (Status.errored code dev st).err = true := rfl
@[simp] theorem Status.errored_outcfg (code : ECode) (dev : Fin 2) (st : Status) :
    (Status.errored code dev st).outcfg = st.outcfg := rfl
@[simp] theorem Status.errored_ecode (code : ECode) (dev : Fin 2) (st : Status) :
    (Status.errored code dev st).ecode = code := rfl
@[simp] theorem Status.errored_edev (code : ECode) (dev : Fin 2) (st : Status) :
    (Status.errored code dev st).edev = dev := rfl

/-! ### Status.configured -/

@[simp] theorem Status.configured_busy (st : Status) :
    (st.configured).busy = st.busy := rfl
@[simp] theorem Status.configured_done (st : Status) :
    (st.configured).done = st.done := rfl
@[simp] theorem Status.configured_err (st : Status) :
    (st.configured).err = st.err := rfl
@[simp] theorem Status.configured_outcfg (st : Status) :
    (st.configured).outcfg = true := rfl
@[simp] theorem Status.configured_ecode (st : Status) :
    (st.configured).ecode = st.ecode := rfl
@[simp] theorem Status.configured_edev (st : Status) :
    (st.configured).edev = st.edev := rfl

end Sys2Proof.Machine
end

