-- ==== Sys2Proof/Laws/Ops.lean ====
section
/-! SUPPORT. Laws/Ops.lean: what the shared operations of Machine/Ops.lean can do, said once each. -/

namespace Sys2Proof.Machine

/-- What no statement of any command writes (10_state R34, R50; the registers CMD, DELAY, PINLEN and PINSTR, the
configuration, the schedule and the host's program). -/
structure State.SameOperands (s t : State) : Prop where
  cmd    : t.cmd = s.cmd
  delay  : t.delay = s.delay
  pinlen : t.pinlen = s.pinlen
  pinstr : t.pinstr = s.pinstr
  cfg    : t.cfg = s.cfg
  turns  : t.turns = s.turns
  host   : t.host = s.host

theorem State.SameOperands.rfl' {s : State} : s.SameOperands s := ⟨rfl, rfl, rfl, rfl, rfl, rfl, rfl⟩

@[simp] theorem evalBytes_nil (pinstr : Vector Byte 32) (ps : Option PatternState) :
    evalBytes pinstr ps [] = .ok [] := rfl

theorem evalBytes_cons_ok {pinstr : Vector Byte 32} {ps : Option PatternState} {e : ByteExpr} {es : List ByteExpr}
    {bytes : List Byte} (h : evalBytes pinstr ps (e :: es) = .ok bytes) :
    ∃ b bs, e.eval pinstr ps = .ok b ∧ evalBytes pinstr ps es = .ok bs ∧ bytes = b :: bs := by
  unfold evalBytes at h
  split at h
  · cases h
  · rename_i b hb
    split at h
    · cases h
    · rename_i bs hbs
      cases h
      exact ⟨b, bs, hb, hbs, rfl⟩

/-- A payload's values are as many as its expressions. -/
theorem evalBytes_length {pinstr : Vector Byte 32} {ps : Option PatternState} {es : List ByteExpr} {bytes : List Byte}
    (h : evalBytes pinstr ps es = .ok bytes) : bytes.length = es.length := by
  induction es generalizing bytes with
  | nil => cases h; rfl
  | cons e es ih =>
    obtain ⟨b, bs, _, hbs, rfl⟩ := evalBytes_cons_ok h
    simp [ih hbs]

/-- The three ways a value statement ends. -/
theorem withValue_next {α : Type} {v : Except Stop α} {s t : State} {go : α → State}
    (h : withValue v s go = .next t) :
    (∃ a, v = .ok a ∧ t = go a) ∨ (∃ code, v = .error (.raise code) ∧ t = s.raiseError code 0) := by
  unfold withValue at h
  split at h
  · cases h; exact .inl ⟨_, rfl, rfl⟩
  · cases h; exact .inr ⟨_, rfl, rfl⟩
  · cases h

/-- A free draw is never an ok read of another length (20_memory R73). -/
theorem freeReply_length {n k : Nat} {r : CallResult} {data : List Byte}
    (h : freeReply n k = .returns r data) : data.length = n := by
  unfold freeReply at h
  split at h
  · cases h; simp
  · cases h

/-- An ok read that the model does not refuse has the length asked for (20_memory R73, U6). -/
theorem replyAt_zero_length {s : State} {n : Nat} {data : List Byte} (hb : s.brokenRead n = none)
    (h : s.replyAt 0 n = .returns .ok data) : data.length = n := by
  unfold State.replyAt at h
  unfold State.brokenRead at hb
  cases hr : s.replies with
  | nil =>
    rw [hr] at h
    exact freeReply_length h
  | cons x xs =>
    rw [hr] at h hb
    simp only [List.length_cons, Nat.zero_lt_succ, getElem?_pos, List.getElem_cons_zero] at h
    subst h
    simp only [ite_eq_left_iff, reduceCtorEq, imp_false, Decidable.not_not] at hb
    exact hb

/-- The two ways a bus write ends: it returned, or the sequencer still waits (60_exceptions R275). -/
theorem busWrite_cases (d : Device) (bytes : List Byte) (run : Run) (s : State) :
    (s.replyAt 0 0 = .never ∧ s.busWrite d bytes run = s)
    ∨ ∃ r data, s.replyAt 0 0 = .returns r data
      ∧ s.busWrite d bytes run
        = State.callReturned (.busWrite d.idx d.addr bytes r) r [] run s.dropReply := by
  unfold State.busWrite State.nextReply
  split
  · exact .inl ⟨‹_›, rfl⟩
  · exact .inr ⟨_, _, ‹_›, rfl⟩

/-- The two ways a bus read ends. -/
theorem busRead_cases (d : Device) (n : Nat) (run : Run) (s : State) :
    (s.replyAt 0 n = .never ∧ s.busRead d n run = s)
    ∨ ∃ r data, s.replyAt 0 n = .returns r data
      ∧ s.busRead d n run
        = State.callReturned (.busRead d.idx d.addr n r (readData r data)) r (readData r data) run s.dropReply := by
  unfold State.busRead State.nextReply
  split
  · exact .inl ⟨‹_›, rfl⟩
  · exact .inr ⟨_, _, ‹_›, rfl⟩

/-- The two ways a Sleep ends. -/
theorem sleep_cases (run : Run) (s : State) :
    (s.clockAt 0 = .never ∧ s.sleep run = s)
    ∨ (s.clockAt 0 = .returns
      ∧ s.sleep run = State.advance run { s.dropClock with trace := s.trace ++ [.sleep s.delay] }) := by
  unfold State.sleep State.nextClock
  split
  · exact .inl ⟨‹_›, rfl⟩
  · exact .inr ⟨‹_›, rfl⟩

/-- EVERYTHING ONE STATEMENT CAN DO when it answers a next state: wait for a call, raise, or go on to the next
statement with one of the effects the spec gives statements. -/
inductive Stmt.Effect (run : Run) (s : State) : Stmt → State → Prop where
  | waits (st : Stmt)
      (h : (∃ d payload, st = .busWrite d payload ∧ s.replyAt 0 0 = .never)
        ∨ (∃ d n, st = .busRead d n ∧ s.replyAt 0 n = .never) ∨ (st = .sleep ∧ s.clockAt 0 = .never)) :
      Stmt.Effect run s st s
  | badPort (p : Nat) (h : ¬ p < 3) : Stmt.Effect run s (.checkPort p) (s.raiseError .invalidArgument 0)
  | badLen (h : s.pinlen ≠ 24#6) : Stmt.Effect run s .checkPinLen (s.raiseError .invalidArgument 0)
  | badChar (k : Fin 32) (h : isPinChar s.pinstr[k] = false) :
      Stmt.Effect run s (.checkPinChar k) (s.raiseError .invalidArgument 0)
  | valueRaises (code : ECode) (e : ByteExpr) (h : e.eval s.pinstr run.ps = .error (.raise code)) :
      Stmt.Effect run s (.setResult e) (s.raiseError code 0)
  | payloadRaises (code : ECode) (d : Device) (payload : List ByteExpr)
      (h : evalBytes s.pinstr run.ps payload = .error (.raise code)) :
      Stmt.Effect run s (.busWrite d payload) (s.raiseError code 0)
  | callFailed (d : Device) (code : ECode) (h : errorOf run.result = some code) :
      Stmt.Effect run s (.check d) (s.raiseError code d.idx)
  | passes (st : Stmt)
      (h : (∃ p, st = .checkPort p ∧ p < 3) ∨ (st = .checkPinLen ∧ s.pinlen = 24#6)
        ∨ (∃ k, st = .checkPinChar k ∧ isPinChar s.pinstr[k] = true) ∨ (∃ d, st = .check d ∧ run.result = .ok)) :
      Stmt.Effect run s st (s.advance run)
  | result (e : ByteExpr) (b : Byte) (h : e.eval s.pinstr run.ps = .ok b) :
      Stmt.Effect run s (.setResult e) (State.advance run { s with result := b })
  | outcfg : Stmt.Effect run s .setOutcfg (State.advance run { s with status := s.status.configured })
  | wrote (d : Device) (payload : List ByteExpr) (bytes : List Byte) (r : CallResult) (data : List Byte)
      (h : evalBytes s.pinstr run.ps payload = .ok bytes) (hr : s.replyAt 0 0 = .returns r data) :
      Stmt.Effect run s (.busWrite d payload)
        (State.callReturned (.busWrite d.idx d.addr bytes r) r [] run s.dropReply)
  | read (d : Device) (n : Nat) (r : CallResult) (data : List Byte) (hb : s.brokenRead n = none)
      (hr : s.replyAt 0 n = .returns r data) :
      Stmt.Effect run s (.busRead d n)
        (State.callReturned (.busRead d.idx d.addr n r (readData r data)) r (readData r data) run s.dropReply)
  | stored (k : Fin 24) (p : Nat) (b : Byte) (h : run.data[p]? = some b) :
      Stmt.Effect run s (.storeDump k p) (State.advance run { s with dump := s.dump.set k b })
  | slept (h : s.clockAt 0 = .returns) :
      Stmt.Effect run s .sleep (State.advance run { s.dropClock with trace := s.trace ++ [.sleep s.delay] })
  | pattern (st : Stmt) (f : PatternState → PatternState) (p : PatternState) (hp : run.ps = some p)
      (h : (∃ q, st = .setPort q ∧ f = fun ps => { ps with port := q })
        ∨ (∃ j, st = .setI j ∧ f = fun ps => { ps with i := j }) ∨ (st = .fillAcc ∧ f = PatternState.filled)) :
      Stmt.Effect run s st (State.advance { run with ps := some (f p) } s)

/-- Where an argument check goes on, its argument is valid; else it raises. -/
theorem checkArgument_cases (valid : Bool) (run : Run) (s : State) :
    (valid = true ∧ s.checkArgument valid run = s.advance run)
    ∨ (valid = false ∧ s.checkArgument valid run = s.raiseError .invalidArgument 0) := by
  cases valid
  · exact .inr ⟨rfl, rfl⟩
  · exact .inl ⟨rfl, rfl⟩

theorem updatePattern_next {f : PatternState → PatternState} {run : Run} {s t : State}
    (h : s.updatePattern f run = .next t) :
    ∃ p, run.ps = some p ∧ t = State.advance { run with ps := some (f p) } s := by
  unfold State.updatePattern at h
  split at h
  · cases h; exact ⟨_, ‹_›, rfl⟩
  · cases h

theorem errorOf_none {r : CallResult} : errorOf r = none ↔ r = .ok := by cases r <;> simp [errorOf]

/-- The inversion of one statement: later proofs cite it instead of unfolding `Stmt.perform`. -/
theorem perform_effect {st : Stmt} {run : Run} {s t : State} (h : st.perform run s = .next t) :
    Stmt.Effect run s st t := by
  cases st with
  | checkPort p =>
    cases h
    rcases checkArgument_cases (decide (p < 3)) run s with ⟨hv, e⟩ | ⟨hv, e⟩ <;> rw [e]
    · exact .passes _ (.inl ⟨p, rfl, by simpa using hv⟩)
    · exact .badPort p (by simpa using hv)
  | checkPinLen =>
    cases h
    rcases checkArgument_cases (s.pinlen == 24#6) run s with ⟨hv, e⟩ | ⟨hv, e⟩ <;> rw [e]
    · exact .passes _ (.inr (.inl ⟨rfl, by simpa using hv⟩))
    · exact .badLen (by simpa using hv)
  | checkPinChar k =>
    cases h
    rcases checkArgument_cases (isPinChar s.pinstr[k]) run s with ⟨hv, e⟩ | ⟨hv, e⟩ <;> rw [e]
    · exact .passes _ (.inr (.inr (.inl ⟨k, rfl, hv⟩)))
    · exact .badChar k hv
  | setResult e =>
    rcases withValue_next h with ⟨b, hb, rfl⟩ | ⟨code, hc, rfl⟩
    · exact .result e b hb
    · exact .valueRaises code e hc
  | setOutcfg => cases h; exact .outcfg
  | busWrite d payload =>
    rcases withValue_next h with ⟨bytes, hb, rfl⟩ | ⟨code, hc, rfl⟩
    · rcases busWrite_cases d bytes run s with ⟨hn, e⟩ | ⟨r, data, hr, e⟩ <;> rw [e]
      · exact .waits _ (.inl ⟨d, payload, rfl, hn⟩)
      · exact .wrote d payload bytes r data hb hr
    · exact .payloadRaises code d payload hc
  | busRead d n =>
    simp only [Stmt.perform] at h
    split at h
    · cases h
    · rename_i hb
      cases h
      rcases busRead_cases d n run s with ⟨hn, e⟩ | ⟨r, data, hr, e⟩ <;> rw [e]
      · exact .waits _ (.inr (.inl ⟨d, n, rfl, hn⟩))
      · exact .read d n r data hb hr
  | check d =>
    simp only [Stmt.perform] at h
    split at h
    · cases h; exact .callFailed d _ ‹_›
    · cases h; exact .passes _ (.inr (.inr (.inr ⟨d, rfl, errorOf_none.mp ‹_›⟩)))
  | storeDump k p =>
    simp only [Stmt.perform] at h
    split at h
    · cases h; exact .stored k p _ ‹_›
    · cases h
  | sleep =>
    cases h
    rcases sleep_cases run s with ⟨hn, e⟩ | ⟨hr, e⟩ <;> rw [e]
    · exact .waits _ (.inr (.inr ⟨rfl, hn⟩))
    · exact .slept hr
  | setPort q =>
    obtain ⟨p, hp, rfl⟩ := updatePattern_next h
    exact .pattern _ (fun ps => { ps with port := q }) p hp (.inl ⟨q, rfl, rfl⟩)
  | setI j =>
    obtain ⟨p, hp, rfl⟩ := updatePattern_next h
    exact .pattern _ (fun ps => { ps with i := j }) p hp (.inr (.inl ⟨j, rfl, rfl⟩))
  | fillAcc =>
    obtain ⟨p, hp, rfl⟩ := updatePattern_next h
    exact .pattern _ PatternState.filled p hp (.inr (.inr ⟨rfl, rfl⟩))

/-- No statement writes an operand register, the configuration, the schedule or the host's program. -/
theorem effect_sameOperands {st : Stmt} {run : Run} {s t : State} (h : Stmt.Effect run s st t) : s.SameOperands t := by
  cases h <;> exact ⟨rfl, rfl, rfl, rfl, rfl, rfl, rfl⟩

/-- `perform` where it answers: the statement at the position, or the end of the rule (30_encoding R111, R112). -/
theorem perform_next {prog : List Stmt} {s t : State} (h : perform prog s = .next t) :
    ∃ run, s.seq = .running run ∧
      ((∃ st, prog[run.pos]? = some st ∧ Stmt.Effect run s st t) ∨ (prog[run.pos]? = none ∧ t = s.complete)) := by
  unfold perform at h
  split at h
  · cases h
  · rename_i run hrun
    refine ⟨run, hrun, ?_⟩
    split at h
    · exact .inl ⟨_, ‹_›, perform_effect h⟩
    · cases h; exact .inr ⟨‹_›, rfl⟩

/-- `perform` at a position of the rule. -/
theorem perform_at {prog : List Stmt} {s : State} {run : Run} {st : Stmt} (hs : s.seq = .running run)
    (hp : prog[run.pos]? = some st) : perform prog s = st.perform run s := by
  unfold perform; rw [hs]; simp only [hp]

/-- `perform` at the end of the rule (30_encoding R112). -/
theorem perform_end {prog : List Stmt} {s : State} {run : Run} (hs : s.seq = .running run)
    (hp : prog.length ≤ run.pos) : perform prog s = .next s.complete := by
  unfold perform; rw [hs]; simp only [List.getElem?_eq_none hp]

/-- Every command's meaning performs its program (30_encoding R111). -/
theorem exec_eq_perform (i : Instr) (s : State) : exec i s = perform (program s.cfg i) s := by
  cases i <;> rfl

end Sys2Proof.Machine
end

