-- ==== Sys2Proof/Laws/Program.lean ====
section
/-! SUPPORT. Laws/Program.lean: facts about the commands' programs and about the statements already performed. -/

namespace Sys2Proof.Machine

/-! ### The statements performed so far -/

/-- One more statement performed: PatternState takes its effect. -/
theorem patternAfter_take_succ {prog : List Stmt} {k : Nat} {st : Stmt} (h : prog[k]? = some st) (p : PatternState) :
    patternAfter p (prog.take (k + 1)) = st.patternEffect (patternAfter p (prog.take k)) := by
  simp [patternAfter, List.take_add_one, h]

/-- One more statement performed: what is known of the locals takes its effect. -/
theorem knownAfter_take_succ {prog : List Stmt} {k : Nat} {st : Stmt} (h : prog[k]? = some st) :
    knownAfter (prog.take (k + 1)) = st.callEffect (knownAfter (prog.take k)) := by
  simp [knownAfter, List.take_add_one, h]

theorem lt_of_getElem?_eq_some {α : Type} {l : List α} {k : Nat} {a : α} (h : l[k]? = some a) : k < l.length :=
  (List.getElem?_eq_some_iff.mp h).1

/-! ### Devices -/

theorem Params.devices_single {c : Params} (h : c.addr1 = none) : c.devices = [⟨0, c.addr0⟩] := by
  simp [Params.devices, h]

theorem Params.devices_dual {c : Params} {a : BitVec 7} (h : c.addr1 = some a) :
    c.devices = [⟨0, c.addr0⟩, ⟨1, a⟩] := by
  simp [Params.devices, h]

theorem Params.devices_length (c : Params) : c.devices.length = c.ndev := by
  cases h : c.addr1 <;> simp [Params.devices, Params.ndev, h]

/-- A device of index 1 is configured only when NDEV is 2 (10_state R34). -/
theorem ndev_of_device_one {c : Params} {d : Device} (hd : d ∈ c.devices) (h : d.idx = 1) : c.ndev = 2 := by
  cases ha : c.addr1 with
  | none => rw [Params.devices_single ha] at hd; simp_all
  | some a => simp [Params.ndev, ha]

/-- A statement whose device, if it names one, is configured. -/
def Stmt.devicesIn (c : Params) : Stmt → Prop
  | .busWrite d _ => d ∈ c.devices
  | .busRead d _ => d ∈ c.devices
  | .check d => d ∈ c.devices
  | _ => True

theorem writeReg_devices (c : Params) (a : ByteExpr) (data : List ByteExpr) :
    ∀ st ∈ writeReg c a data, st.devicesIn c := by
  intro st h
  simp only [writeReg, List.mem_flatMap, List.mem_cons, List.not_mem_nil, or_false] at h
  obtain ⟨d, hd, rfl | rfl⟩ := h <;> exact hd

theorem setAll_devices (c : Params) (b : ByteExpr) : ∀ st ∈ setAll c b, st.devicesIn c := by
  intro st h
  simp only [setAll, writePort, List.mem_append] at h
  rcases h with (h | h) | h <;> exact writeReg_devices _ _ _ st h

theorem frame_devices (c : Params) (b : ByteExpr) : ∀ st ∈ frame c b, st.devicesIn c := by
  intro st h
  simp only [frame, List.mem_append, List.mem_singleton] at h
  rcases h with h | rfl
  · exact setAll_devices c b st h
  · trivial

theorem framed_devices (c : Params) (pol : Polarity) (l : List Stmt) (hl : ∀ st ∈ l, st.devicesIn c) :
    ∀ st ∈ framed c pol l, st.devicesIn c := by
  intro st h
  simp only [framed, List.mem_append] at h
  rcases h with (h | h) | h
  · exact setAll_devices c _ st h
  · exact hl st h
  · exact setAll_devices c _ st h

theorem move1Port_devices (c : Params) (p : Fin 3) : ∀ st ∈ move1Port c p, st.devicesIn c := by
  intro st h
  simp only [move1Port, List.cons_append, List.mem_cons, List.mem_append, List.mem_flatMap, handoffWrite] at h
  rcases h with rfl | ⟨i, _, rfl | h | h | h⟩ | h
  · trivial
  · trivial
  · exact writeReg_devices _ _ _ st h
  · subst h; trivial
  · cases h
  · split at h
    · exact writeReg_devices _ _ _ st h
    · cases h

theorem dumpGroup_devices (c : Params) (d : Device) (hd : d ∈ c.devices) (g : Fin 4) (f : Family) :
    ∀ st ∈ dumpGroup d g f, st.devicesIn c := by
  intro st h
  simp only [dumpGroup, readReg, List.cons_append, List.nil_append, List.mem_cons, List.not_mem_nil, or_false] at h
  rcases h with rfl | rfl | rfl | rfl | rfl | rfl | rfl <;> first | exact hd | trivial

/-- Every call and check of every command is of a configured device (20_memory R71). -/
theorem program_devices (c : Params) (i : Instr) : ∀ st ∈ program c i, st.devicesIn c := by
  intro st h
  cases i with
  | cfgout =>
    simp only [program, cfgoutProgram, List.mem_append, List.mem_singleton] at h
    rcases h with h | rfl
    · exact writeReg_devices _ _ _ st h
    · trivial
  | wrport p b =>
    simp only [program, wrportProgram, List.mem_cons] at h
    rcases h with rfl | h
    · trivial
    · exact writeReg_devices _ _ _ st h
  | setall l => exact setAll_devices _ _ st h
  | setpins =>
    simp only [program, setpinsProgram, List.cons_append, List.mem_cons, List.mem_append, List.mem_map] at h
    rcases h with rfl | ⟨k, _, rfl⟩ | h
    · trivial
    · trivial
    · exact writeReg_devices _ _ _ st h
  | dump =>
    simp only [program, dumpProgram, List.mem_flatMap] at h
    obtain ⟨d, hd, g, _, h⟩ := h
    exact dumpGroup_devices c d hd g.1 g.2 st h
  | regaddr p f m =>
    simp only [program, regaddrProgram, List.mem_cons, List.not_mem_nil, or_false] at h
    rcases h with rfl | rfl <;> trivial
  | move1 m =>
    refine framed_devices c _ _ (fun st h => ?_) st h
    obtain ⟨p, _, h⟩ := List.mem_flatMap.mp h
    exact move1Port_devices c p st h
  | move1in8 m =>
    refine framed_devices c _ _ (fun st h => ?_) st h
    obtain ⟨j, _, h⟩ := List.mem_flatMap.mp h
    rcases List.mem_cons.mp h with rfl | h
    · trivial
    · exact frame_devices c _ st h
  | move1in4 m =>
    refine framed_devices c _ _ (fun st h => ?_) st h
    obtain ⟨j, _, h⟩ := List.mem_flatMap.mp h
    rcases List.mem_cons.mp h with rfl | h
    · trivial
    · exact frame_devices c _ st h
  | incr1in8 m =>
    refine framed_devices c _ _ (fun st h => ?_) st h
    obtain ⟨j, _, h⟩ := List.mem_flatMap.mp h
    rcases List.mem_cons.mp h with rfl | h
    · trivial
    · rcases List.mem_cons.mp h with rfl | h
      · trivial
      · exact frame_devices c _ st h
  | decr1in8 m =>
    refine framed_devices c _ _ (fun st h => ?_) st h
    obtain ⟨j, _, h⟩ := List.mem_flatMap.mp h
    rcases List.mem_cons.mp h with rfl | h
    · trivial
    · rcases List.mem_cons.mp h with rfl | h
      · trivial
      · exact frame_devices c _ st h
  | alternate =>
    simp only [program, alternateProgram, List.mem_append] at h
    rcases h with h | h <;> exact frame_devices c _ st h

/-! ### Runs -/

theorem execTimes_succ (i : Instr) (n : Nat) {s t : State} (h : exec i s = .next t) :
    execTimes i (n + 1) s = execTimes i n t := by
  simp only [execTimes, h]

theorem execTimes_add (i : Instr) (m n : Nat) {s t : State} (h : execTimes i m s = .next t) :
    execTimes i (m + n) s = execTimes i n t := by
  induction m generalizing s with
  | zero => cases h; rw [Nat.zero_add]
  | succ m ih =>
    rw [Nat.add_right_comm]
    simp only [execTimes] at h ⊢
    split at h
    · exact ih h
    · cases h
    · cases h

end Sys2Proof.Machine
end

