-- ==== Sys2Proof/Laws/Run.lean ====
section
/-! SUPPORT. Laws/Run.lean: what a list of statements does when it is run to its end. `Compiles` relates the statements
still to perform to the calls they make; `run_of_compiles` says, once for every command, that they make those calls in
order and end as `runCalls` says. -/

namespace Sys2Proof.Machine

/-! ### Answers used up -/

theorem replyAt_afterBus (e : Event) (s : State) (k n : Nat) : (s.afterBus e).replyAt k n = s.replyAt (k + 1) n := by
  have h : s.draws + 1 + k = s.draws + (k + 1) := by omega
  simp only [State.afterBus, State.replyAt, List.getElem?_tail, h]

theorem clockAt_afterBus (e : Event) (s : State) (k : Nat) : (s.afterBus e).clockAt k = s.clockAt k := rfl

theorem replyAt_afterSleep (s : State) (k n : Nat) : s.afterSleep.replyAt k n = s.replyAt k n := rfl

theorem clockAt_afterSleep (s : State) (k : Nat) : s.afterSleep.clockAt k = s.clockAt (k + 1) := by
  have h : s.ticks + 1 + k = s.ticks + (k + 1) := by omega
  simp only [State.afterSleep, State.clockAt, List.getElem?_tail, h]

theorem callsReturn_afterBus {n : Nat} {s : State} (h : s.callsReturn (n + 1)) (e : Event) :
    (s.afterBus e).callsReturn n := by
  intro k hk
  refine ⟨fun b => ?_, (h k (by omega)).2⟩
  rw [replyAt_afterBus]
  exact (h (k + 1) (by omega)).1 b

theorem callsReturn_afterSleep {n : Nat} {s : State} (h : s.callsReturn (n + 1)) : s.afterSleep.callsReturn n := by
  intro k hk
  refine ⟨(h k (by omega)).1, ?_⟩
  rw [clockAt_afterSleep]
  exact (h (k + 1) (by omega)).2

/-- Every listed reply to a read among the given calls keeps the contract of 20_memory R73. -/
def readsKept : List Call → State → Prop
  | [], _ => True
  | .write d bytes :: cs, s => readsKept cs (s.afterBus (.busWrite d.idx d.addr bytes .ok))
  | .read d _ :: cs, s =>
    s.brokenRead 3 = none
      ∧ ∀ data, readsKept cs (s.afterBus (.busRead d.idx d.addr 3 .ok data))
  | .sleep :: cs, s => readsKept cs s.afterSleep

/-- `readsKept` looks at the listed replies only. -/
theorem readsKept_congr {cs : List Call} {s t : State} (h : t.replies = s.replies) : readsKept cs s → readsKept cs t := by
  induction cs generalizing s t with
  | nil => exact id
  | cons c cs ih =>
    cases c with
    | write d bytes => exact ih (by simp [State.afterBus, h])
    | read d base =>
      rintro ⟨hb, hk⟩
      exact ⟨by simpa [State.brokenRead, h] using hb, fun data => ih (by simp [State.afterBus, h]) (hk data)⟩
    | sleep => exact ih (by simp [State.afterSleep, h])

/-! ### The calls a list of statements makes -/

/-- The statements, performed from PatternState `ps` on, make the calls, then do what `fin` does; every argument check
among them passes. -/
inductive Compiles (pinlen : BitVec 6) (pinstr : Vector Byte 32) :
    (State → State) → Option PatternState → List Stmt → List Call → Prop where
  | nil (ps : Option PatternState) : Compiles pinlen pinstr (fun s => s) ps [] []
  | outcfg (ps : Option PatternState) :
      Compiles pinlen pinstr (fun s => { s with status := { s.status with outcfg := true } }) ps [.setOutcfg] []
  | result (ps : Option PatternState) (e : ByteExpr) (b : Byte) (h : e.eval pinstr ps = .ok b) :
      Compiles pinlen pinstr (fun s => { s with result := b }) ps [.setResult e] []
  | port {fin : State → State} {ps : Option PatternState} {l : List Stmt} {cs : List Call} (p : Nat) (h : p < 3)
      (hl : Compiles pinlen pinstr fin ps l cs) : Compiles pinlen pinstr fin ps (.checkPort p :: l) cs
  | len {fin : State → State} {ps : Option PatternState} {l : List Stmt} {cs : List Call} (h : pinlen = 24#6)
      (hl : Compiles pinlen pinstr fin ps l cs) : Compiles pinlen pinstr fin ps (.checkPinLen :: l) cs
  | char {fin : State → State} {ps : Option PatternState} {l : List Stmt} {cs : List Call} (k : Fin 32)
      (h : isPinChar pinstr[k] = true) (hl : Compiles pinlen pinstr fin ps l cs) :
      Compiles pinlen pinstr fin ps (.checkPinChar k :: l) cs
  | write {fin : State → State} {ps : Option PatternState} {l : List Stmt} {cs : List Call} (d : Device)
      (payload : List ByteExpr) (bytes : List Byte) (h : evalBytes pinstr ps payload = .ok bytes)
      (hl : Compiles pinlen pinstr fin ps l cs) :
      Compiles pinlen pinstr fin ps (.busWrite d payload :: .check d :: l) (.write d bytes :: cs)
  | read {fin : State → State} {ps : Option PatternState} {l : List Stmt} {cs : List Call} (d : Device)
      (base : Fin 22) (k0 k1 k2 : Fin 24) (h0 : k0.val = base.val) (h1 : k1.val = base.val + 1)
      (h2 : k2.val = base.val + 2) (hl : Compiles pinlen pinstr fin ps l cs) :
      Compiles pinlen pinstr fin ps
        (.busRead d 3 :: .check d :: .storeDump k0 0 :: .storeDump k1 1 :: .storeDump k2 2 :: l) (.read d base :: cs)
  | sleep {fin : State → State} {ps : Option PatternState} {l : List Stmt} {cs : List Call}
      (hl : Compiles pinlen pinstr fin ps l cs) : Compiles pinlen pinstr fin ps (.sleep :: l) (.sleep :: cs)
  | setPort {fin : State → State} {p : PatternState} {l : List Stmt} {cs : List Call} (q : Fin 3)
      (hl : Compiles pinlen pinstr fin (some { p with port := q }) l cs) :
      Compiles pinlen pinstr fin (some p) (.setPort q :: l) cs
  | setI {fin : State → State} {p : PatternState} {l : List Stmt} {cs : List Call} (j : Fin 8)
      (hl : Compiles pinlen pinstr fin (some { p with i := j }) l cs) :
      Compiles pinlen pinstr fin (some p) (.setI j :: l) cs
  | fillAcc {fin : State → State} {p : PatternState} {l : List Stmt} {cs : List Call}
      (hl : Compiles pinlen pinstr fin (some p.filled) l cs) :
      Compiles pinlen pinstr fin (some p) (.fillAcc :: l) cs

/-- The sequencer at a point of a program, with the statements still to perform. -/
structure Ahead (i : Instr) (s : State) (run : Run) (l : List Stmt) : Prop where
  rest : (program s.cfg i).drop run.pos = l
  ok   : run.pos ≤ (program s.cfg i).length

theorem Ahead.head {i : Instr} {s : State} {run : Run} {st : Stmt} {l : List Stmt} (h : Ahead i s run (st :: l)) :
    (program s.cfg i)[run.pos]? = some st := by
  have := congrArg List.head? h.rest
  simpa [List.head?_drop] using this

theorem Ahead.tail {i : Instr} {s : State} {run run' : Run} {st : Stmt} {l : List Stmt} (h : Ahead i s run (st :: l))
    (hp : run'.pos = run.pos + 1) : Ahead i s run' l := by
  refine ⟨?_, ?_⟩
  · rw [hp, ← List.drop_drop, h.rest]; rfl
  · rw [hp]; exact lt_of_getElem?_eq_some h.head

/-- One statement that answers a next state: the rest of the run is the run from there. -/
theorem execTimes_head {i : Instr} {s t : State} {run : Run} {st : Stmt} {l : List Stmt} (n : Nat)
    (ha : Ahead i s run (st :: l))
    (h : st.perform run { s with seq := .running run } = .next t) :
    execTimes i (n + 1) { s with seq := .running run } = execTimes i n t := by
  refine execTimes_succ i n ?_
  rw [exec_eq_perform, perform_at (run := run) rfl ha.head, h]

/-- A bus write that returns, and its check: one call of the rule (40_register_map_and_bus R145, 60_exceptions R261). -/
theorem execTimes_write {i : Instr} {s : State} {run : Run} {d : Device} {payload : List ByteExpr} {bytes : List Byte}
    {l : List Stmt} {r : CallResult} {data : List Byte} (n : Nat)
    (ha : Ahead i s run (.busWrite d payload :: .check d :: l))
    (hv : evalBytes s.pinstr run.ps payload = .ok bytes) (hr : s.replyAt 0 0 = .returns r data) :
    execTimes i (n + 2) { s with seq := .running run }
      = execTimes i n (match errorOf r with
        | some code => (s.afterBus (.busWrite d.idx d.addr bytes r)).failed code d.idx
        | none => { s.afterBus (.busWrite d.idx d.addr bytes r) with
          seq := .running { run with pos := run.pos + 2, result := r, data := [] } }) := by
  have h1 : (Stmt.busWrite d payload).perform run { s with seq := .running run }
      = .next { s.afterBus (.busWrite d.idx d.addr bytes r) with
          seq := .running { run with pos := run.pos + 1, result := r, data := [] } } := by
    have hr' : State.replyAt 0 0 { s with seq := .running run } = .returns r data := hr
    simp only [Stmt.perform, hv, withValue, State.busWrite, State.nextReply, hr']
    rfl
  rw [execTimes_head (n + 1) ha h1]
  have hb : Ahead i (s.afterBus (.busWrite d.idx d.addr bytes r)) { run with pos := run.pos + 1, result := r, data := [] }
      (.check d :: l) := ⟨(ha.tail (run' := { run with pos := run.pos + 1 }) rfl).rest,
        (ha.tail (run' := { run with pos := run.pos + 1 }) rfl).ok⟩
  refine execTimes_head n hb ?_
  simp only [Stmt.perform]
  cases r <;> rfl

/-- The three stores after a read that returned its three bytes (41_port_controller R180). -/
theorem execTimes_stores {i : Instr} {s : State} {run : Run} {base : Fin 22} {k0 k1 k2 : Fin 24} {l : List Stmt}
    {b0 b1 b2 : Byte} (n : Nat) (h0 : k0.val = base.val) (h1 : k1.val = base.val + 1) (h2 : k2.val = base.val + 2)
    (ha : Ahead i s run (.storeDump k0 0 :: .storeDump k1 1 :: .storeDump k2 2 :: l)) (hd : run.data = [b0, b1, b2]) :
    execTimes i (n + 3) { s with seq := .running run }
      = execTimes i n { s with
          dump := storeThree s.dump base [b0, b1, b2]
          seq := .running { run with pos := run.pos + 3 } } := by
  obtain ⟨k0, hk0⟩ := k0
  obtain ⟨k1, hk1⟩ := k1
  obtain ⟨k2, hk2⟩ := k2
  dsimp only at h0 h1 h2
  subst h0 h1 h2
  obtain ⟨cmd, pos, result, data, ps⟩ := run
  dsimp only at hd
  subst hd
  rw [execTimes_head (n + 2) ha rfl]
  refine (execTimes_head (s := { s with dump := s.dump.set base.val b0 })
    (run := ⟨cmd, pos + 1, result, [b0, b1, b2], ps⟩) (n + 1)
    ⟨(ha.tail (run' := ⟨cmd, pos + 1, result, [b0, b1, b2], ps⟩) rfl).rest, (ha.tail (run' := ⟨cmd, pos + 1, result, [b0, b1, b2], ps⟩) rfl).ok⟩ rfl).trans ?_
  have ha2 := (ha.tail (run' := ⟨cmd, pos + 1, result, [b0, b1, b2], ps⟩) rfl).tail
    (run' := ⟨cmd, pos + 2, result, [b0, b1, b2], ps⟩) rfl
  exact execTimes_head (s := { s with dump := (s.dump.set base.val b0).set (base.val + 1) b1 })
    (run := ⟨cmd, pos + 2, result, [b0, b1, b2], ps⟩) n ⟨ha2.rest, ha2.ok⟩ rfl

/-- A bus read that returns, its check, and the stores of its bytes (40_register_map_and_bus R147, 41_port_controller R180). -/
theorem execTimes_read {i : Instr} {s : State} {run : Run} {d : Device} {base : Fin 22} {k0 k1 k2 : Fin 24}
    {l : List Stmt} {data : List Byte} (n : Nat) (h0 : k0.val = base.val) (h1 : k1.val = base.val + 1)
    (h2 : k2.val = base.val + 2)
    (ha : Ahead i s run (.busRead d 3 :: .check d :: .storeDump k0 0 :: .storeDump k1 1 :: .storeDump k2 2 :: l))
    (hb : s.brokenRead 3 = none) (hr : s.replyAt 0 3 = .returns .ok data) :
    execTimes i (n + 5) { s with seq := .running run }
      = execTimes i n { s.afterBus (.busRead d.idx d.addr 3 .ok data) with
          dump := storeThree s.dump base data
          seq := .running { run with pos := run.pos + 5, result := .ok, data := data } } := by
  have h : (Stmt.busRead d 3).perform run { s with seq := .running run }
      = .next { s.afterBus (.busRead d.idx d.addr 3 .ok data) with
          seq := .running { run with pos := run.pos + 1, result := .ok, data := data } } := by
    have hb' : State.brokenRead 3 { s with seq := .running run } = none := hb
    have hr' : State.replyAt 0 3 { s with seq := .running run } = .returns .ok data := hr
    simp only [Stmt.perform, hb', State.busRead, State.nextReply, hr', readData]
    rfl
  rw [execTimes_head (n + 4) ha h]
  have ha1 := ha.tail (run' := ⟨run.cmd, run.pos + 1, .ok, data, run.ps⟩) rfl
  refine (execTimes_head (s := s.afterBus (.busRead d.idx d.addr 3 .ok data)) (n + 3) ⟨ha1.rest, ha1.ok⟩ rfl).trans ?_
  have ha2 := ha1.tail (run' := ⟨run.cmd, run.pos + 2, .ok, data, run.ps⟩) rfl
  match data, replyAt_zero_length hb hr with
  | [b0, b1, b2], _ =>
    exact execTimes_stores (s := s.afterBus (.busRead d.idx d.addr 3 .ok [b0, b1, b2])) n h0 h1 h2
      ⟨ha2.rest, ha2.ok⟩ rfl

/-- A read that returns without ok ends the command with its error. -/
theorem execTimes_read_failed {i : Instr} {s : State} {run : Run} {d : Device} {l : List Stmt} {r : CallResult}
    {data : List Byte} {code : ECode} (ha : Ahead i s run (.busRead d 3 :: .check d :: l))
    (hr : s.replyAt 0 3 = .returns r data) (hb : s.brokenRead 3 = none) (hc : errorOf r = some code) :
    execTimes i 2 { s with seq := .running run }
      = .next ((s.afterBus (.busRead d.idx d.addr 3 r [])).failed code d.idx) := by
  have hd : readData r data = [] := by cases r <;> first | cases hc; done | rfl
  have h : (Stmt.busRead d 3).perform run { s with seq := .running run }
      = .next { s.afterBus (.busRead d.idx d.addr 3 r []) with
          seq := .running { run with pos := run.pos + 1, result := r, data := [] } } := by
    have hb' : State.brokenRead 3 { s with seq := .running run } = none := hb
    have hr' : State.replyAt 0 3 { s with seq := .running run } = .returns r data := hr
    simp only [Stmt.perform, hb', State.busRead, State.nextReply, hr', hd]
    rfl
  rw [execTimes_head 1 ha h]
  have ha1 := ha.tail (run' := ⟨run.cmd, run.pos + 1, r, [], run.ps⟩) rfl
  refine (execTimes_head (s := s.afterBus (.busRead d.idx d.addr 3 r [])) 0 ⟨ha1.rest, ha1.ok⟩
    (t := (s.afterBus (.busRead d.idx d.addr 3 r [])).failed code d.idx) ?_).trans rfl
  simp only [Stmt.perform, hc]
  rfl

/-- THE RUN OF A COMMAND whose statements compile to calls: while calls return, it ends, after at most one step a
statement and one for completion, as `runCalls` says. -/
theorem run_of_compiles {i : Instr} {fin : State → State} {ps : Option PatternState} {l : List Stmt} {cs : List Call}
    {pinlen : BitVec 6} {pinstr : Vector Byte 32} {s : State} {run : Run} (hc : Compiles pinlen pinstr fin ps l cs)
    (ha : Ahead i s run l) (hp : run.ps = ps) (hr : s.callsReturn cs.length) (hk : readsKept cs s)
    (hpl : s.pinlen = pinlen) (hpi : s.pinstr = pinstr) :
    ∃ n, n ≤ l.length + 1 ∧ execTimes i n { s with seq := .running run } = .next (runCalls fin cs s) := by
  have step1 : ∀ {st : Stmt} {l : List Stmt} {fin : State → State} {cs : List Call} {s t : State} {run run' : Run},
      Ahead i s run (st :: l) → st.perform run { s with seq := .running run } = .next { t with seq := .running run' } →
      (∃ n, n ≤ l.length + 1 ∧ execTimes i n { t with seq := .running run' } = .next (runCalls fin cs t)) →
      ∃ n, n ≤ (st :: l).length + 1 ∧ execTimes i n { s with seq := .running run } = .next (runCalls fin cs t) := by
    intro st l fin cs s t run run' ha h ⟨n, hn, hx⟩
    exact ⟨n + 1, by simpa using hn, (execTimes_head n ha h).trans hx⟩
  have stepEnd : ∀ {s : State} {run : Run}, Ahead i s run [] →
      exec i { s with seq := .running run } = .next s.ended := by
    intro s run ha
    rw [exec_eq_perform, perform_end (run := run) rfl (List.drop_eq_nil_iff.mp ha.rest)]
    rfl
  induction hc generalizing s run with
  | nil ps => exact ⟨1, Nat.le_refl _, execTimes_succ i 0 (stepEnd ha)⟩
  | outcfg ps =>
    refine step1 (t := { s with status := { s.status with outcfg := true } }) (run' := { run with pos := run.pos + 1 }) (cs := []) (fin := fun s => s) ha rfl ?_
    have ha1 := ha.tail (run' := { run with pos := run.pos + 1 }) rfl
    exact ⟨1, Nat.le_refl _, execTimes_succ i 0 (stepEnd ⟨ha1.rest, ha1.ok⟩)⟩
  | result ps e b h =>
    have ha1 := ha.tail (run' := { run with pos := run.pos + 1 }) rfl
    refine step1 (t := { s with result := b }) (run' := { run with pos := run.pos + 1 }) (cs := []) (fin := fun s => s) ha ?_
      ⟨1, Nat.le_refl _, execTimes_succ i 0 (stepEnd ⟨ha1.rest, ha1.ok⟩)⟩
    subst hp hpi
    simp only [Stmt.perform, h, withValue]
    rfl
  | port p h hl ih =>
    refine step1 (t := s) (run' := { run with pos := run.pos + 1 }) ha ?_ (ih (ha.tail rfl) hp hr hk hpl hpi)
    simp only [Stmt.perform, State.checkArgument, h, decide_true, if_true]
    rfl
  | len h hl ih =>
    refine step1 (t := s) (run' := { run with pos := run.pos + 1 }) ha ?_ (ih (ha.tail rfl) hp hr hk hpl hpi)
    simp only [Stmt.perform, State.checkArgument, hpl, h, beq_self_eq_true, if_true]
    rfl
  | char k h hl ih =>
    refine step1 (t := s) (run' := { run with pos := run.pos + 1 }) ha ?_ (ih (ha.tail rfl) hp hr hk hpl hpi)
    subst hpi
    simp only [Stmt.perform, State.checkArgument, h, if_true]
    rfl
  | sleep hl ih =>
    have hw : s.clockAt 0 = .returns := by
      have := (hr 0 (by simp)).2
      cases hh : s.clockAt 0 with
      | returns => rfl
      | never => exact absurd hh this
    have ha1 := ha.tail (run' := { run with pos := run.pos + 1 }) rfl
    have := ih (s := s.afterSleep) (run := { run with pos := run.pos + 1 }) ⟨ha1.rest, ha1.ok⟩ hp
      (callsReturn_afterSleep hr) hk hpl hpi
    simp only [runCalls, hw]
    refine step1 (t := s.afterSleep) (run' := { run with pos := run.pos + 1 }) ha ?_ this
    have hw' : State.clockAt 0 { s with seq := .running run } = .returns := hw
    simp only [Stmt.perform, State.sleep, State.nextClock, hw']
    rfl
  | setPort q hl ih =>
    refine step1 (t := s) (run' := { run with pos := run.pos + 1, ps := some _ }) ha ?_ (ih (ha.tail rfl) rfl hr hk hpl hpi)
    simp only [Stmt.perform, State.updatePattern, hp]
    rfl
  | setI j hl ih =>
    refine step1 (t := s) (run' := { run with pos := run.pos + 1, ps := some _ }) ha ?_ (ih (ha.tail rfl) rfl hr hk hpl hpi)
    simp only [Stmt.perform, State.updatePattern, hp]
    rfl
  | fillAcc hl ih =>
    refine step1 (t := s) (run' := { run with pos := run.pos + 1, ps := some _ }) ha ?_ (ih (ha.tail rfl) rfl hr hk hpl hpi)
    simp only [Stmt.perform, State.updatePattern, hp]
    rfl
  | @write fin ps l cs d payload bytes h hl ih =>
    subst hp hpi
    cases hx : s.replyAt 0 0 with
    | never => exact absurd hx ((hr 0 (by simp)).1 0)
    | returns r data =>
      have e := fun n => execTimes_write (i := i) n ha h hx
      cases r with
      | ok =>
        have ha2 := (ha.tail (run' := { run with pos := run.pos + 1 }) rfl).tail
          (run' := { run with pos := run.pos + 2, result := .ok, data := [] }) rfl
        obtain ⟨n, hn, hm⟩ := ih (s := s.afterBus (.busWrite d.idx d.addr bytes .ok)) (run := { run with pos := run.pos + 2, result := .ok, data := [] }) ⟨ha2.rest, ha2.ok⟩ rfl
          (callsReturn_afterBus hr _) hk hpl rfl
        exact ⟨n + 2, by simp only [List.length_cons]; omega, (e n).trans (by simp only [runCalls, hx]; exact hm)⟩
      | ioError => exact ⟨2, by simp only [List.length_cons]; omega, (e 0).trans (by simp only [runCalls, hx]; rfl)⟩
      | noAck => exact ⟨2, by simp only [List.length_cons]; omega, (e 0).trans (by simp only [runCalls, hx]; rfl)⟩
  | @read fin ps l cs d base k0 k1 k2 h0 h1 h2 hl ih =>
    subst hp hpi
    obtain ⟨hb, hk⟩ := hk
    cases hx : s.replyAt 0 3 with
    | never => exact absurd hx ((hr 0 (by simp)).1 3)
    | returns r data =>
      cases r with
      | ok =>
        have ha5 := ((((ha.tail (run' := { run with pos := run.pos + 1 }) rfl).tail
          (run' := { run with pos := run.pos + 2 }) rfl).tail (run' := { run with pos := run.pos + 3 }) rfl).tail
          (run' := { run with pos := run.pos + 4 }) rfl).tail
          (run' := { run with pos := run.pos + 5, result := .ok, data := data }) rfl
        obtain ⟨n, hn, hm⟩ := ih (s := { s.afterBus (.busRead d.idx d.addr 3 .ok data) with dump := storeThree s.dump base data })
          (run := { run with pos := run.pos + 5, result := .ok, data := data }) ⟨ha5.rest, ha5.ok⟩ rfl
          (callsReturn_afterBus hr (.busRead d.idx d.addr 3 .ok data)) 
          (readsKept_congr (s := s.afterBus (.busRead d.idx d.addr 3 .ok data)) rfl (hk data)) hpl rfl
        exact ⟨n + 5, by simp only [List.length_cons]; omega,
          (execTimes_read n h0 h1 h2 ha hb hx).trans (by simp only [runCalls, hx]; exact hm)⟩
      | ioError =>
        exact ⟨2, by simp only [List.length_cons]; omega,
          (execTimes_read_failed ha hx hb rfl).trans (by simp only [runCalls, hx])⟩
      | noAck =>
        exact ⟨2, by simp only [List.length_cons]; omega,
          (execTimes_read_failed ha hx hb rfl).trans (by simp only [runCalls, hx])⟩

end Sys2Proof.Machine
end

