-- ==== Sys2Proof/Laws/Compiles.lean ====
section
/-! SUPPORT. Laws/Compiles.lean: the calls of the shared pieces of programs (40_register_map_and_bus R145,
41_port_controller R170, R171, 42_pattern_engine R202, R203), one lemma each. -/

namespace Sys2Proof.Machine

variable {pinlen : BitVec 6} {pinstr : Vector Byte 32} {fin : State → State} {ps : Option PatternState}
  {l : List Stmt} {cs : List Call}

/-- A payload's values, expression by expression. -/
theorem evalBytes_cons {e : ByteExpr} {es : List ByteExpr} {b : Byte} {bs : List Byte}
    (h : e.eval pinstr ps = .ok b) (hs : evalBytes pinstr ps es = .ok bs) :
    evalBytes pinstr ps (e :: es) = .ok (b :: bs) := by
  simp only [evalBytes, h, hs]

/-- `WriteReg` makes one write a configured device (40_register_map_and_bus R145). -/
theorem compiles_writeReg (c : Params) {addr : ByteExpr} {data : List ByteExpr} {bytes : List Byte}
    (h : evalBytes pinstr ps (addr :: data) = .ok bytes) (hl : Compiles pinlen pinstr fin ps l cs) :
    Compiles pinlen pinstr fin ps (writeReg c addr data ++ l) (writeCalls c bytes ++ cs) := by
  unfold writeReg writeCalls
  induction c.devices with
  | nil => exact hl
  | cons d ds ih => exact .write d _ bytes h ih

/-- The output register a port expression names (40_register_map_and_bus R140). -/
theorem regAddr_output {p : PortExpr} {q : Fin 3} (h : p.eval ps = .ok q.val) :
    (ByteExpr.regAddr p .output .nonAi).eval pinstr ps = .ok (outputRegister q) := by
  simp only [ByteExpr.eval, h, regMapValue, regMap, q.isLt, if_true]
  revert q
  intro q _
  match q with
  | 0 => rfl
  | 1 => rfl
  | 2 => rfl

/-- `WritePort` (41_port_controller R170). -/
theorem compiles_writePort (c : Params) {p : PortExpr} {q : Fin 3} {e : ByteExpr} {b : Byte}
    (hp : p.eval ps = .ok q.val) (h : e.eval pinstr ps = .ok b) (hl : Compiles pinlen pinstr fin ps l cs) :
    Compiles pinlen pinstr fin ps (writePort c p e ++ l) (portCalls c q b ++ cs) :=
  compiles_writeReg c (evalBytes_cons (regAddr_output hp) (evalBytes_cons h rfl)) hl

/-- `SetAll` (41_port_controller R171). -/
theorem compiles_setAll (c : Params) {e : ByteExpr} {b : Byte} (h : e.eval pinstr ps = .ok b)
    (hl : Compiles pinlen pinstr fin ps l cs) :
    Compiles pinlen pinstr fin ps (setAll c e ++ l) (allCalls c b ++ cs) := by
  simp only [setAll, allCalls, List.append_assoc]
  exact compiles_writePort c (q := 0) rfl h (compiles_writePort c (q := 1) rfl h (compiles_writePort c (q := 2) rfl h hl))

/-- A frame (42_pattern_engine R203). -/
theorem compiles_frame (c : Params) {e : ByteExpr} {b : Byte} (h : e.eval pinstr ps = .ok b)
    (hl : Compiles pinlen pinstr fin ps l cs) :
    Compiles pinlen pinstr fin ps (frame c e ++ l) (allCalls c b ++ .sleep :: cs) := by
  simp only [frame, List.append_assoc]
  exact compiles_setAll c h (.sleep hl)

/-- A pattern between its resting levels (42_pattern_engine R202): `frames` takes PatternState from `p` to `p'`, which
leaves the mode as it was. -/
theorem compiles_framed (c : Params) (pol : Polarity) {p p' : PatternState} {frames : List Stmt} (hm : p'.mode = p.mode)
    (h : ∀ {l : List Stmt} {cs' : List Call}, Compiles pinlen pinstr (fun s => s) (some p') l cs' →
      Compiles pinlen pinstr (fun s => s) (some p) (frames ++ l) (cs ++ cs')) :
    Compiles pinlen pinstr (fun s => s) (some p) (framed c pol frames)
      (allCalls c (transform (pol.apply p.mode) 0x00#8) ++ cs ++ allCalls c (transform (pol.apply p.mode) 0x00#8)) := by
  simp only [framed, List.append_assoc]
  have hr : (ByteExpr.rest pol).eval pinstr (some p') = .ok (transform (pol.apply p.mode) 0x00#8) := by
    rw [← hm]; rfl
  have hlast := compiles_setAll (pinlen := pinlen) (fin := fun s => s) c hr (.nil _)
  rw [List.append_nil, List.append_nil] at hlast
  exact compiles_setAll c rfl (h hlast)

end Sys2Proof.Machine
end

