-- ==== Sys2Proof/Laws/Decode.lean ====
section
/-! SUPPORT. Laws/Decode.lean: the fields of an encoded word (30_encoding R100), the byte lanes of a word (20_memory
R76), and what the decoder reads from bytes. -/

namespace Sys2Proof

/-! ### Fields of a word made from fields -/

variable (data opc : Byte) (ai m : Bool) (fam port : BitVec 2)

/-- Bit `k` of a word made from fields: the field diagram of 30_encoding R100. -/
theorem getLsbD_assembleFields (k : Nat) : (assembleFields data ai fam port m opc).getLsbD k
    = if k < 8 then opc.getLsbD k else if k < 9 then m else if k < 11 then port.getLsbD (k - 9)
      else if k < 13 then fam.getLsbD (k - 11) else if k < 14 then ai else if k < 16 then false
      else if k < 24 then data.getLsbD (k - 16) else false := by
  have h1 : (k - 8 < 1) = (k < 9) := by rw [eq_iff_iff]; omega
  have h2 : (k - 8 - 1 < 2) = (k < 11) := by rw [eq_iff_iff]; omega
  have h3 : (k - 8 - 1 - 2 < 2) = (k < 13) := by rw [eq_iff_iff]; omega
  have h4 : (k - 8 - 1 - 2 - 2 < 1) = (k < 14) := by rw [eq_iff_iff]; omega
  have h5 : (k - 8 - 1 - 2 - 2 - 1 < 2) = (k < 16) := by rw [eq_iff_iff]; omega
  have h6 : (k - 8 - 1 - 2 - 2 - 1 - 2 < 8) = (k < 24) := by rw [eq_iff_iff]; omega
  have e2 : k - 8 - 1 = k - 9 := by omega
  have e3 : k - 9 - 2 = k - 11 := by omega
  have e6 : k - 11 - 2 - 1 - 2 = k - 16 := by omega
  simp only [assembleFields, BitVec.getLsbD_append, h1, h2, h3, h4, h5, h6, BitVec.getLsbD_zero]
  rw [e2, e3, e6]
  by_cases c0 : k < 8
  · simp only [c0, if_true]
  · by_cases c1 : k < 9
    · have : k = 8 := by omega
      subst this
      cases m <;> rfl
    · by_cases c4 : 13 ≤ k ∧ k < 14
      · have : k = 13 := by omega
        subst this
        cases ai <;> rfl
      · by_cases c3 : k < 13
        · simp only [c0, c1, c3, if_true, if_false]
        · have : ¬ k < 14 := by omega
          simp only [c0, c1, c3, this, if_false]

@[simp] theorem fieldOpc_assembleFields : fieldOpc (assembleFields data ai fam port m opc) = opc := by
  apply BitVec.eq_of_getLsbD_eq
  intro k hk
  simp only [fieldOpc, BitVec.getLsbD_extractLsb', getLsbD_assembleFields, Nat.zero_add, hk, decide_true,
    Bool.true_and, if_true]

@[simp] theorem fieldM_assembleFields : fieldM (assembleFields data ai fam port m opc) = m :=
  getLsbD_assembleFields data opc ai m fam port 8

@[simp] theorem fieldAi_assembleFields : fieldAi (assembleFields data ai fam port m opc) = ai :=
  getLsbD_assembleFields data opc ai m fam port 13

@[simp] theorem fieldPort_assembleFields : fieldPort (assembleFields data ai fam port m opc) = port := by
  apply BitVec.eq_of_getLsbD_eq
  intro k hk
  have h0 : ¬ 9 + k < 8 := by omega
  have h1 : ¬ 9 + k < 9 := by omega
  have h2 : 9 + k < 11 := by omega
  have e : 9 + k - 9 = k := by omega
  simp only [fieldPort, BitVec.getLsbD_extractLsb', getLsbD_assembleFields, hk, h0, h1, h2, e, decide_true,
    Bool.true_and, if_true, if_false]

@[simp] theorem fieldFam_assembleFields : fieldFam (assembleFields data ai fam port m opc) = fam := by
  apply BitVec.eq_of_getLsbD_eq
  intro k hk
  have h0 : ¬ 11 + k < 8 := by omega
  have h1 : ¬ 11 + k < 9 := by omega
  have h2 : ¬ 11 + k < 11 := by omega
  have h3 : 11 + k < 13 := by omega
  have e : 11 + k - 11 = k := by omega
  simp only [fieldFam, BitVec.getLsbD_extractLsb', getLsbD_assembleFields, hk, h0, h1, h2, h3, e, decide_true,
    Bool.true_and, if_true, if_false]

@[simp] theorem fieldData_assembleFields : fieldData (assembleFields data ai fam port m opc) = data := by
  apply BitVec.eq_of_getLsbD_eq
  intro k hk
  have h0 : ¬ 16 + k < 8 := by omega
  have h1 : ¬ 16 + k < 9 := by omega
  have h2 : ¬ 16 + k < 11 := by omega
  have h3 : ¬ 16 + k < 13 := by omega
  have h4 : ¬ 16 + k < 14 := by omega
  have h5 : ¬ 16 + k < 16 := by omega
  have h6 : 16 + k < 24 := by omega
  have e : 16 + k - 16 = k := by omega
  simp only [fieldData, BitVec.getLsbD_extractLsb', getLsbD_assembleFields, hk, h0, h1, h2, h3, h4, h5, h6, e,
    decide_true, Bool.true_and, if_true, if_false]

/-- Masking a word made from fields masks each field. -/
theorem assembleFields_and (data' opc' : Byte) (ai' m' : Bool) (fam' port' : BitVec 2) :
    assembleFields data ai fam port m opc &&& assembleFields data' ai' fam' port' m' opc'
      = assembleFields (data &&& data') (ai && ai') (fam &&& fam') (port &&& port') (m && m') (opc &&& opc') := by
  apply BitVec.eq_of_getLsbD_eq
  intro k _
  simp only [BitVec.getLsbD_and, getLsbD_assembleFields]
  by_cases c0 : k < 8
  · simp only [c0, if_true]
  by_cases c1 : k < 9
  · simp only [c0, c1, if_true, if_false]
  by_cases c2 : k < 11
  · simp only [c0, c1, c2, if_true, if_false]
  by_cases c3 : k < 13
  · simp only [c0, c1, c2, c3, if_true, if_false]
  by_cases c4 : k < 14
  · simp only [c0, c1, c2, c3, c4, if_true, if_false]
  by_cases c5 : k < 16
  · simp only [c0, c1, c2, c3, c4, c5, if_true, if_false, Bool.and_false]
  by_cases c6 : k < 24
  · simp only [c0, c1, c2, c3, c4, c5, c6, if_true, if_false]
  · simp only [c0, c1, c2, c3, c4, c5, c6, if_false, Bool.and_false]

/-! ### Operand values through their fields -/

@[simp] theorem Family.ofBits_toBits (f : Family) : Family.ofBits f.toBits = f := by cases f <;> rfl

@[simp] theorem AddrMode.ofBit_toBit (a : AddrMode) : AddrMode.ofBit a.toBit = a := by cases a <;> rfl

@[simp] theorem Mode.ofBit_toBit (m : Mode) : Mode.ofBit m.toBit = m := by cases m <;> rfl

@[simp] theorem Level.ofBit_toBit (l : Level) : Level.ofBit l.toBit = l := by cases l <;> rfl

/-- A port that the PORT field holds comes back from it (30_encoding R114). -/
theorem port_ofNat_toNat {port : Nat} (h : portEncodable port = true) : (BitVec.ofNat 2 port).toNat = port := by
  have : port < 4 := by simpa [portEncodable] using h
  simp only [BitVec.toNat_ofNat]
  omega

/-! ### Bytes -/

/-- Bit `k` of a word made from lanes (20_memory R76). -/
theorem getLsbD_ofLanes (b0 b1 b2 b3 : Byte) (k : Nat) : (ofLanes b0 b1 b2 b3).getLsbD k
    = if k < 8 then b0.getLsbD k else if k < 16 then b1.getLsbD (k - 8)
      else if k < 24 then b2.getLsbD (k - 16) else b3.getLsbD (k - 24) := by
  have h1 : (k - 8 < 8) = (k < 16) := by rw [eq_iff_iff]; omega
  have h2 : (k - 16 < 8) = (k < 24) := by rw [eq_iff_iff]; omega
  have e2 : k - 8 - 8 = k - 16 := by omega
  have e3 : k - 16 - 8 = k - 24 := by omega
  simp only [ofLanes, BitVec.getLsbD_append, e2, e3, h1, h2]

/-- Bit `k` of a lane (20_memory R76). -/
theorem getLsbD_lane (w : Word) (j k : Nat) : (lane w j).getLsbD k = (decide (k < 8) && w.getLsbD (8 * j + k)) := by
  simp only [lane, BitVec.getLsbD_extractLsb']

/-- A word is the word of its lanes (20_memory R76). -/
@[simp] theorem ofLanes_lanes (w : Word) : ofLanes (lane w 0) (lane w 1) (lane w 2) (lane w 3) = w := by
  apply BitVec.eq_of_getLsbD_eq
  intro k hk
  simp only [getLsbD_ofLanes, getLsbD_lane]
  split
  · simp [*]
  · split
    · have h : k - 8 < 8 := by omega
      have e : 8 * 1 + (k - 8) = k := by omega
      simp only [h, e, decide_true, Bool.true_and]
    · split
      · have h : k - 16 < 8 := by omega
        have e : 8 * 2 + (k - 16) = k := by omega
        simp only [h, e, decide_true, Bool.true_and]
      · have h : k - 24 < 8 := by omega
        have e : 8 * 3 + (k - 24) = k := by omega
        simp only [h, e, decide_true, Bool.true_and]

/-- The lanes of a word made from lanes. -/
theorem lane_ofLanes (b0 b1 b2 b3 : Byte) :
    lane (ofLanes b0 b1 b2 b3) 0 = b0 ∧ lane (ofLanes b0 b1 b2 b3) 1 = b1
      ∧ lane (ofLanes b0 b1 b2 b3) 2 = b2 ∧ lane (ofLanes b0 b1 b2 b3) 3 = b3 := by
  refine ⟨?_, ?_, ?_, ?_⟩ <;> refine BitVec.eq_of_getLsbD_eq fun k hk => ?_ <;>
    simp only [getLsbD_lane, getLsbD_ofLanes, hk, decide_true, Bool.true_and]
  · rw [if_pos (by omega)]; congr 1; omega
  · rw [if_neg (by omega), if_pos (by omega)]; congr 1; omega
  · rw [if_neg (by omega), if_neg (by omega), if_pos (by omega)]; congr 1; omega
  · rw [if_neg (by omega), if_neg (by omega), if_neg (by omega)]; congr 1; omega

/-- The decoder reads a word from its four bytes, and gives the rest back. -/
theorem decodeBytes_wordBytes (w : Word) (rest : List Byte) :
    decodeBytes (wordBytes w ++ rest) = (match decodeWord w with
      | .ok i => .ok (i, rest)
      | .error e => .error e) := by
  cases h : decodeWord w <;>
    simp only [wordBytes, List.cons_append, List.nil_append, decodeBytes, ofLanes_lanes, h]

end Sys2Proof
end

