-- ==== Sys2Proof/Laws/HostPort.lean ====
section
/-! SUPPORT. Laws/HostPort.lean: what a host access can do, and what the bytes of the window depend on. -/

namespace Sys2Proof.Machine

/-! ### Reads -/

/-- A register of the window depends on its own state only (10_state R40 to R49). -/
theorem readWindow_congr {s t : State} {off : Nat} (h0 : off = 0x00 → t.cmd = s.cmd) (h4 : off = 0x04 → t.delay = s.delay)
    (h8 : off = 0x08 → t.status = s.status) (hC : off = 0x0C → t.result = s.result)
    (h10 : off = 0x10 → t.cfg = s.cfg) (h14 : off = 0x14 → t.pinlen = s.pinlen)
    (h20 : 0x20 ≤ off ∧ off < 0x40 → t.pinstr = s.pinstr) (h40 : 0x40 ≤ off ∧ off < 0x58 → t.dump = s.dump) :
    t.readWindow off = s.readWindow off := by
  unfold State.readWindow
  split
  · exact h0 ‹_›
  split
  · exact h4 ‹_›
  split
  · rw [h8 ‹_›]
  split
  · rw [hC ‹_›]
  split
  · rw [h10 ‹_›]
  split
  · rw [h14 ‹_›]
  split
  · rw [h20 ‹_›]
  split
  · rw [h40 ‹_›]
  · rfl

/-- No byte of the window outside STATUS changes while the registers, the buffers and the configuration are the same. -/
theorem windowByte_eq_of_sameRegisters {s t : State} {a : Nat} (ha : a / 4 ≠ 2) (hcmd : t.cmd = s.cmd)
    (hdelay : t.delay = s.delay) (hresult : t.result = s.result) (hcfg : t.cfg = s.cfg) (hpinlen : t.pinlen = s.pinlen)
    (hpinstr : t.pinstr = s.pinstr) (hdump : t.dump = s.dump) : t.windowByte a = s.windowByte a := by
  unfold State.windowByte
  rw [readWindow_congr (fun _ => hcmd) (fun _ => hdelay) (fun h => absurd h (by omega)) (fun _ => hresult)
    (fun _ => hcfg) (fun _ => hpinlen) (fun _ => hpinstr) (fun _ => hdump)]

/-! ### Writes -/

/-- EVERYTHING A HOST WRITE OF THE WINDOW CAN DO (10_state R41 to R50). -/
inductive WindowWrite (s : State) (off : Nat) (w : Word) : State → Prop where
  | ignored (h : s.status.busy = true ∨ (off ≠ 0x00 ∧ off ≠ 0x04 ∧ off ≠ 0x14 ∧ ¬(0x20 ≤ off ∧ off < 0x40))) :
      WindowWrite s off w s
  | cmd (hb : s.status.busy = false) (h : off = 0x00) : WindowWrite s off w (s.latch w)
  | delay (hb : s.status.busy = false) (h : off = 0x04) : WindowWrite s off w { s with delay := w }
  | pinlen (hb : s.status.busy = false) (h : off = 0x14) : WindowWrite s off w { s with pinlen := w.extractLsb' 0 6 }
  | pinstr (hb : s.status.busy = false) (h : 0x20 ≤ off ∧ off < 0x40) :
      WindowWrite s off w { s with pinstr := setPinstrWord s.pinstr ⟨(off - 0x20) / 4, by omega⟩ w }

theorem writeWindow_cases (s : State) (off : Nat) (w : Word) : WindowWrite s off w (s.writeWindow off w) := by
  unfold State.writeWindow
  split
  · exact .ignored (.inl ‹_›)
  · rename_i hb
    have hb : s.status.busy = false := by simpa using hb
    split
    · exact .cmd hb ‹_›
    split
    · exact .delay hb ‹_›
    split
    · exact .pinlen hb ‹_›
    split
    · exact .pinstr hb ‹_›
    · exact .ignored (.inr ⟨‹_›, ‹_›, ‹_›, ‹_›⟩)

/-- The two ways a latch ends (30_encoding R110). -/
theorem latch_cases (s : State) (w : Word) :
    (∃ e, decodeWord w = .error e
      ∧ s.latch w = { s with cmd := w, seq := .idle, status := s.status.clearForLatch.errored .illegalCommand 0 })
    ∨ (∃ i, decodeWord w = .ok i
      ∧ s.latch w = { s with cmd := w, seq := .running (Run.start w), status := s.status.clearForLatch.started }) := by
  unfold State.latch
  cases h : decodeWord w with
  | error e => exact .inl ⟨e, rfl, rfl⟩
  | ok i => exact .inr ⟨i, rfl, rfl⟩

/-! ### Accesses -/

theorem memWrite_next {s t : State} {off width : Nat} {v : Word} (h : s.memWrite off width v = .next t) :
    admitted off width = true ∧ t = (s.log (.hostWrite off v)).writeWindow off v := by
  unfold State.memWrite at h
  split at h
  · cases h; exact ⟨‹_›, rfl⟩
  · cases h

theorem memRead_next {s t : State} {off width : Nat} (h : s.memRead off width = .next t) :
    admitted off width = true ∧ t = s.log (.hostRead off (s.readWindow off)) := by
  unfold State.memRead at h
  split at h
  · cases h; exact ⟨‹_›, rfl⟩
  · cases h

theorem admitted_iff {off width : Nat} : admitted off width = true ↔ width = 4 ∧ off % 4 = 0 ∧ off < 256 := by
  simp [admitted, and_assoc]

/-- EVERYTHING THE HOST'S TURN CAN DO. -/
theorem hostTurn_next {s t : State} (h : s.hostTurn = .next t) :
    (s.host = [] ∧ t = s)
    ∨ (∃ off v rest, s.host = .write off 4 v :: rest ∧ admitted off 4 = true
      ∧ t = (State.log (.hostWrite off v) { s with host := rest }).writeWindow off v)
    ∨ (∃ off rest, s.host = .read off 4 :: rest ∧ admitted off 4 = true
      ∧ t = State.log (.hostRead off (s.readWindow off)) { s with host := rest })
    ∨ (∃ rest host', s.host = .wait :: rest ∧ t = { s with
        host := host'
        trace := s.trace ++ [.hostRead 0x08 (s.readWindow 0x08)] }) := by
  unfold State.hostTurn at h
  split at h
  · cases h; exact .inl ⟨‹_›, rfl⟩
  · obtain ⟨ha, rfl⟩ := memWrite_next h
    obtain rfl : _ = 4 := (admitted_iff.mp ha).1
    exact .inr (.inl ⟨_, _, _, ‹_›, ha, rfl⟩)
  · obtain ⟨ha, rfl⟩ := memRead_next h
    obtain rfl : _ = 4 := (admitted_iff.mp ha).1
    exact .inr (.inr (.inl ⟨_, _, ‹_›, ha, rfl⟩))
  · obtain ⟨_, rfl⟩ := memRead_next h
    refine .inr (.inr (.inr ?_))
    split
    · exact ⟨_, s.host, ‹_›, rfl⟩
    · exact ⟨_, _, ‹_›, rfl⟩

end Sys2Proof.Machine
end

