-- ==== Sys2Proof/Laws/PerInstr.lean ====
section
/-! SUPPORT. Laws/PerInstr.lean: statements about every command as syntax, one lemma a constructor. Family EncodesItsRow:
the word of a command matches the command's own row of 30_encoding R103 and spells the row's opcode. -/

namespace Sys2Proof.Laws

/-- The match and mask columns of a command's row (30_encoding R103). -/
def matchMask : Instr → Word × Word
  | .cfgout => (0x00000001#32, 0xFFFFFFFF#32)
  | .wrport _ _ => (0x00000002#32, 0xFF00F9FF#32)
  | .setall _ => (0x00000003#32, 0xFFFFFEFF#32)
  | .setpins => (0x00000004#32, 0xFFFFFFFF#32)
  | .dump => (0x00000005#32, 0xFFFFFFFF#32)
  | .regaddr _ _ _ => (0x00000006#32, 0xFFFFC1FF#32)
  | .move1 _ => (0x00000010#32, 0xFFFFFEFF#32)
  | .move1in8 _ => (0x00000011#32, 0xFFFFFEFF#32)
  | .move1in4 _ => (0x00000012#32, 0xFFFFFEFF#32)
  | .incr1in8 _ => (0x00000013#32, 0xFFFFFEFF#32)
  | .decr1in8 _ => (0x00000014#32, 0xFFFFFEFF#32)
  | .alternate => (0x00000015#32, 0xFFFFFFFF#32)

/-- The word matches its row under the row's mask, whatever the operands. -/
def EncodesItsRow.Statement (i : Instr) : Prop :=
  encode i &&& (matchMask i).2 = (matchMask i).1 ∧ fieldOpc (encode i) = fieldOpc (matchMask i).1

/-- Two words that agree on the bits of a mask are the same under it. -/
theorem and_eq_of_agree {v w mask : Word}
    (h : ∀ k, k < 32 → mask.getLsbD k = true → v.getLsbD k = w.getLsbD k) : v &&& mask = w &&& mask := by
  apply BitVec.eq_of_getLsbD_eq
  intro k hk
  simp only [BitVec.getLsbD_and]
  cases hm : mask.getLsbD k with
  | false => simp only [Bool.and_false]
  | true => rw [h k hk hm]

/-- Words made from fields agree on the bits of a mask that covers none of the fields they differ in. -/
theorem assembleFields_agree {data data' opc : Byte} {ai ai' m : Bool} {fam fam' port port' : BitVec 2} {mask : Word}
    (h : ∀ k, k < 32 → mask.getLsbD k = true →
      (9 ≤ k ∧ k < 11 → port = port') ∧ (11 ≤ k ∧ k < 13 → fam = fam') ∧ (k = 13 → ai = ai')
        ∧ (16 ≤ k ∧ k < 24 → data = data')) :
    assembleFields data ai fam port m opc &&& mask = assembleFields data' ai' fam' port' m opc &&& mask := by
  refine and_eq_of_agree fun k hk hm => ?_
  obtain ⟨h1, h2, h3, h4⟩ := h k hk hm
  simp only [getLsbD_assembleFields]
  by_cases c0 : k < 8
  · simp only [c0, if_true]
  by_cases c1 : k < 9
  · simp only [c0, c1, if_true, if_false]
  by_cases c2 : k < 11
  · simp only [c0, c1, c2, if_true, if_false, h1 ⟨by omega, c2⟩]
  by_cases c3 : k < 13
  · simp only [c0, c1, c2, c3, if_true, if_false, h2 ⟨by omega, c3⟩]
  by_cases c4 : k < 14
  · simp only [c0, c1, c2, c3, c4, if_true, if_false, h3 (by omega)]
  by_cases c5 : k < 16
  · simp only [c0, c1, c2, c3, c4, c5, if_true, if_false]
  by_cases c6 : k < 24
  · simp only [c0, c1, c2, c3, c4, c5, c6, if_true, if_false, h4 ⟨by omega, c6⟩]
  · simp only [c0, c1, c2, c3, c4, c5, c6, if_false]

theorem EncodesItsRow.cfgout : EncodesItsRow.Statement .cfgout := by
  constructor <;> decide

theorem EncodesItsRow.wrport (port : Nat) (data : Byte) : EncodesItsRow.Statement (.wrport port data) := by
  refine ⟨?_, fieldOpc_assembleFields _ _ _ _ _ _⟩
  have free : ∀ k, k < 32 → (0xFF00F9FF#32 : Word).getLsbD k = true →
      ¬(9 ≤ k ∧ k < 11) ∧ ¬(16 ≤ k ∧ k < 24) := by decide
  refine (assembleFields_agree (data' := 0) (ai' := false) (fam' := 0) (port' := 0) fun k hk hm => ?_).trans
    (by decide : assembleFields 0 false 0 0 false 0x02#8 &&& 0xFF00F9FF#32 = 0x00000002#32)
  have := free k hk hm
  exact ⟨fun h => absurd h this.1, fun _ => rfl, fun _ => rfl, fun h => absurd h this.2⟩

theorem EncodesItsRow.setall (level : Level) : EncodesItsRow.Statement (.setall level) := by
  cases level <;> constructor <;> decide

theorem EncodesItsRow.setpins : EncodesItsRow.Statement .setpins := by
  constructor <;> decide

theorem EncodesItsRow.dump : EncodesItsRow.Statement .dump := by
  constructor <;> decide

theorem EncodesItsRow.regaddr (port : Nat) (family : Family) (mode : AddrMode) : EncodesItsRow.Statement (.regaddr port family mode) := by
  refine ⟨?_, fieldOpc_assembleFields _ _ _ _ _ _⟩
  have free : ∀ k, k < 32 → (0xFFFFC1FF#32 : Word).getLsbD k = true → ¬(9 ≤ k ∧ k < 14) := by decide
  refine (assembleFields_agree (data' := 0) (ai' := false) (fam' := 0) (port' := 0) fun k hk hm => ?_).trans
    (by decide : assembleFields 0 false 0 0 false 0x06#8 &&& 0xFFFFC1FF#32 = 0x00000006#32)
  have := free k hk hm
  exact ⟨fun h => absurd ⟨h.1, by omega⟩ this, fun h => absurd ⟨by omega, by omega⟩ this,
    fun h => absurd ⟨by omega, by omega⟩ this, fun _ => rfl⟩

theorem EncodesItsRow.move1 (mode : Mode) : EncodesItsRow.Statement (.move1 mode) := by
  cases mode <;> constructor <;> decide

theorem EncodesItsRow.move1in8 (mode : Mode) : EncodesItsRow.Statement (.move1in8 mode) := by
  cases mode <;> constructor <;> decide

theorem EncodesItsRow.move1in4 (mode : Mode) : EncodesItsRow.Statement (.move1in4 mode) := by
  cases mode <;> constructor <;> decide

theorem EncodesItsRow.incr1in8 (mode : Mode) : EncodesItsRow.Statement (.incr1in8 mode) := by
  cases mode <;> constructor <;> decide

theorem EncodesItsRow.decr1in8 (mode : Mode) : EncodesItsRow.Statement (.decr1in8 mode) := by
  cases mode <;> constructor <;> decide

theorem EncodesItsRow.alternate : EncodesItsRow.Statement .alternate := by
  constructor <;> decide

end Sys2Proof.Laws
end

