-- ==== Sys2Proof/Laws/Step.lean ====
section
/-! SUPPORT. Laws/Step.lean: everything a step can do, said once. -/

namespace Sys2Proof.Machine

/-- The sequencer's turn where it answers: idle, it does nothing; running, it performs a statement or completes
(30_encoding R111, R112). -/
theorem sequencerTurn_next {s t : State} (h : s.sequencerTurn = .next t) :
    (s.seq = .idle ∧ t = s)
    ∨ (∃ run i, s.seq = .running run ∧ decodeWord run.cmd = .ok i
      ∧ ((∃ st, (program s.cfg i)[run.pos]? = some st ∧ Stmt.Effect run s st t)
        ∨ ((program s.cfg i)[run.pos]? = none ∧ t = s.complete)))
    ∨ (∃ run e, s.seq = .running run ∧ decodeWord run.cmd = .error e ∧ t = s.raiseError .illegalCommand 0) := by
  unfold State.sequencerTurn at h
  split at h
  · cases h; exact .inl ⟨‹_›, rfl⟩
  · rename_i run hs
    split at h
    · rename_i i hd
      rw [exec_eq_perform] at h
      obtain ⟨run', hs', hc⟩ := perform_next h
      rw [hs] at hs'
      cases hs'
      exact .inr (.inl ⟨run, i, hs, hd, hc⟩)
    · cases h
      exact .inr (.inr ⟨run, _, hs, ‹_›, rfl⟩)

/-- EVERYTHING A STEP CAN DO: the host's turn, the sequencer's turn, or a block reset; a listed turn is used up
(20_memory R88, 70_reset_and_hazards R300). -/
theorem step_next {s t : State} (h : step s = .next t) :
    State.hostTurn { s with turns := s.turns.tail } = .next t
    ∨ State.sequencerTurn { s with turns := s.turns.tail } = .next t
    ∨ (∃ cfg ts, s.turns = .reset cfg :: ts ∧ t = State.blockReset cfg { s with turns := ts }) := by
  unfold step at h
  split at h
  · rename_i ht
    have hs : { s with turns := s.turns.tail } = s := by rw [ht, List.tail_nil, ← ht]
    rw [hs]
    unfold State.defaultTurn at h
    split at h
    · exact .inl h
    · exact .inr (.inl h)
  · rename_i u ts ht
    rw [ht]
    cases u with
    | host => exact .inl h
    | sequencer => exact .inr (.inl h)
    | reset cfg => cases h; exact .inr (.inr ⟨cfg, ts, rfl, rfl⟩)

end Sys2Proof.Machine
end

