-- ==== Sys2Proof/Tests/Slice0.lean ====
section
/-! SUPPORT. Tests/Slice0.lean: the WellFormed smoke, the decoding of words written out from 30_encoding R100, one-step
tests whose expected results are those of 95_test_vectors, and for every obligation with hypotheses a witness that
meets them. -/

namespace Sys2Proof.Tests

open Sys2Proof Sys2Proof.Machine

/-! ### WellFormed -/

theorem test_wrport_of_port_4_is_ill_formed : (Instr.wrport 4 0x00#8).wellFormed = false := by decide

theorem test_regaddr_of_port_4_is_ill_formed : (Instr.regaddr 4 .input .nonAi).wellFormed = false := by decide

theorem test_ill_formed_has_no_word : (CommandLine.command (.wrport 4 0x00#8)).toWord = none := by decide

/-! ### Decoding: each word bit by bit, fields separated as 30_encoding R100's diagram separates them:
reserved 8, DATA 8, reserved 2, AI 1, FAM 2, PORT 2, M 1, OPC 8 -/

/-- The command a word spells. -/
def decoded (w : Word) : Option Instr :=
  match decodeWord w with
  | .ok i => some i
  | .error _ => none

theorem test_decode_cfgout : decoded 0b00000000_00000000_00_0_00_00_0_00000001#32 = some .cfgout := by decide

theorem test_decode_wrport :
    decoded 0b00000000_11111111_00_0_00_10_0_00000010#32 = some (.wrport 2 0xFF#8) := by decide

theorem test_decode_wrport_of_port_3 :
    decoded 0b00000000_11111111_00_0_00_11_0_00000010#32 = some (.wrport 3 0xFF#8) := by decide

theorem test_decode_setall : decoded 0b00000000_00000000_00_0_00_00_1_00000011#32 = some (.setall .on) := by decide

theorem test_decode_setpins : decoded 0b00000000_00000000_00_0_00_00_0_00000100#32 = some .setpins := by decide

theorem test_decode_dump : decoded 0b00000000_00000000_00_0_00_00_0_00000101#32 = some .dump := by decide

theorem test_decode_regaddr :
    decoded 0b00000000_00000000_00_0_10_01_0_00000110#32 = some (.regaddr 1 .polarity .nonAi) := by decide

theorem test_decode_regaddr_ai :
    decoded 0b00000000_00000000_00_1_01_10_0_00000110#32 = some (.regaddr 2 .output .ai) := by decide

theorem test_decode_move1 : decoded 0b00000000_00000000_00_0_00_00_1_00010000#32 = some (.move1 .lighting) := by decide

theorem test_decode_move1in8 :
    decoded 0b00000000_00000000_00_0_00_00_0_00010001#32 = some (.move1in8 .clearing) := by decide

theorem test_decode_move1in4 :
    decoded 0b00000000_00000000_00_0_00_00_1_00010010#32 = some (.move1in4 .lighting) := by decide

theorem test_decode_incr1in8 :
    decoded 0b00000000_00000000_00_0_00_00_0_00010011#32 = some (.incr1in8 .clearing) := by decide

theorem test_decode_decr1in8 :
    decoded 0b00000000_00000000_00_0_00_00_1_00010100#32 = some (.decr1in8 .lighting) := by decide

theorem test_decode_alternate : decoded 0b00000000_00000000_00_0_00_00_0_00010101#32 = some .alternate := by decide

/-- 95_test_vectors L2.10 and L2.3: words no row takes. -/
theorem test_decode_rejects : ([0x00000000#32, 0x00000007#32, 0x0000000F#32, 0x00000016#32, 0x000000FF#32, 0x00000101#32,
      0x80000010#32, 0x00000210#32, 0x00000115#32, 0x00000105#32, 0x00010006#32, 0x00000102#32, 0x00004002#32,
      0x01000002#32, 0x00000203#32, 0x00FF0003#32].all fun w => decoded w == none) = true := by decide

theorem test_decode_needs_four_bytes : decodeBytes [0x01#8, 0x00#8, 0x00#8] = .error .truncated := rfl

theorem test_decodeTableWord_reads_lane_0_first : decodeTableWord 32 0x005A0202 = some (.wrport 1 0x5A#8) := by decide

/-! ### Small states -/

/-- One chip at 0x22, as 95_test_vectors starts. -/
def single : Params := { addr0 := 0x22#7, addr1 := none, handoff := .restore }

/-- Two chips at 0x22 and 0x23. -/
def dual : Params := { addr0 := 0x22#7, addr1 := some 0x23#7, handoff := .restore }

/-- The pin characters of a string. -/
def pinChars (s : String) : Vector Byte 32 :=
  Vector.ofFn fun k => BitVec.ofNat 8 (((s.toList.map Char.toNat)).getD k.val 0)

/-- A state with every call answered ok, each read with the bytes 11 22 33, and the sequencer where the latch of the
word left it. -/
def started (c : Params) (w : Word) : State :=
  { State.reset with
    cfg := c
    cmd := w
    status := { Status.reset with busy := true }
    seq := .running (Run.start w)
    replies := List.replicate 192 (.returns .ok [0x11#8, 0x22#8, 0x33#8])
    clock := List.replicate 32 .returns }

/-- The same at a later position of the command, with the given result and data of the last call. -/
def midway (c : Params) (w : Word) (i : Instr) (pos : Nat) (r : CallResult) (data : List Byte) : State :=
  { started c w with
    seq := .running ⟨w, pos, r, data, (initialPattern w).map fun p => patternAfter p ((program c i).take pos)⟩ }

/-- The trace after one step of a command. -/
def traceAfter (i : Instr) (s : State) : Option (List Event) := (nextOf (exec i s)).map State.trace

/-- STATUS after one step of a command, as the host reads it. -/
def statusAfter (i : Instr) (s : State) : Option Word := (nextOf (exec i s)).map fun t => t.status.toWord

/-- PatternState after one step of a command. -/
def accAfter (i : Instr) (s : State) : Option Byte :=
  (nextOf (exec i s)).bind fun t => match t.seq with
    | .idle => none
    | .running run => run.ps.map PatternState.acc

theorem started_inv {c : Params} {w : Word} {i : Instr} (h : decodeWord w = .ok i) : (started c w).inv := by
  refine ⟨by simp [Status.inv, started, Status.reset], rfl, rfl, i, h, Nat.zero_le _, ?_, fun _ => rfl, fun _ => rfl⟩
  simp only [Run.start, List.take_zero]
  cases initialPattern w <;> rfl

theorem midway_inv {c : Params} {w : Word} {i : Instr} {pos : Nat} {r : CallResult} {data : List Byte}
    (h : decodeWord w = .ok i) (hp : pos ≤ (program c i).length)
    (h1 : (knownAfter ((program c i).take pos)).checked = true → r = .ok)
    (h2 : r = .ok → data.length = (knownAfter ((program c i).take pos)).bytes) : (midway c w i pos r data).inv :=
  ⟨by simp [Status.inv, midway, started, Status.reset], rfl, rfl, i, h, hp, rfl, h1, h2⟩

/-! ### One-step tests -/

/-- 95_test_vectors L2.2: the burst, device 1 after device 0. -/
theorem test_cfgout_burst_to_device_1 :
    traceAfter .cfgout (midway dual 0x00000001#32 .cfgout 2 .ok []) = some [.busWrite 1 0x23#7 [0x8C#8, 0#8, 0#8, 0#8] .ok] := by
  decide

/-- 95_test_vectors L2.2: STATUS 0x0000000A. -/
theorem test_cfgout_end :
    statusAfter .cfgout { midway single 0x00000001#32 .cfgout 3 .ok [] with status := ⟨true, false, false, true, .none, 0⟩ }
      = some 0x0000000A#32 := by decide

/-- 95_test_vectors L2.3: WRPORT 1, 0x5A. -/
theorem test_wrport : traceAfter (.wrport 1 0x5A#8) (midway single 0x005A0202#32 (.wrport 1 0x5A#8) 1 .ok [])
    = some [.busWrite 0 0x22#7 [0x05#8, 0x5A#8] .ok] := by decide

/-- 95_test_vectors L2.3: WRPORT 3, 0xFF gives InvalidArgument. -/
theorem test_wrport_of_port_3 : statusAfter (.wrport 3 0xFF#8) (started single 0x00FF0602#32) = some 0x00000104#32 := by
  decide

/-- 95_test_vectors L1.10: SETALL ON's third write. -/
theorem test_setall_third_write : traceAfter (.setall .on) (midway single 0x00000103#32 (.setall .on) 4 .ok [])
    = some [.busWrite 0 0x22#7 [0x06#8, 0xFF#8] .ok] := by decide

/-- 95_test_vectors L2.3: device 1's second write fails. -/
theorem test_setall_fails_on_device_1 :
    statusAfter (.setall .on) (midway dual 0x00000103#32 (.setall .on) 7 .ioError []) = some 0x00000A04#32 := by decide

/-- 95_test_vectors L2.4: the burst of "101010100000111111110000". -/
theorem test_setpins : traceAfter .setpins { midway single 0x00000004#32 .setpins 25 .ok [] with
      pinlen := 24#6, pinstr := pinChars "101010100000111111110000" }
    = some [.busWrite 0 0x22#7 [0x84#8, 0xAA#8, 0x0F#8, 0xF0#8] .ok] := by decide

/-- 95_test_vectors L1.4: a space at index 23. -/
theorem test_setpins_rejects_a_space : statusAfter .setpins { midway single 0x00000004#32 .setpins 24 .ok [] with
      pinlen := 24#6, pinstr := pinChars "11111111000000001111111 " } = some 0x00000104#32 := by decide

/-- 95_test_vectors L2.4: the pointer write of the output group. -/
theorem test_dump_pointer : traceAfter .dump (midway single 0x00000005#32 .dump 7 .ok []) = some [.busWrite 0 0x22#7 [0x84#8] .ok] := by
  decide

/-- 95_test_vectors L2.4: device 1's first read byte, 0x1E, is DUMP[12]. -/
theorem test_dump_store : ((nextOf (exec .dump (midway dual 0x00000005#32 .dump 32 .ok [0x1E#8, 0x2D#8, 0x3C#8]))).map
    fun t => t.readWindow 0x4C) = some 0x0000001E#32 := by decide

/-- 95_test_vectors L2.1: REGADDR 2, CONFIG, AI is 0x8E. -/
theorem test_regaddr : ((nextOf (exec (.regaddr 2 .config .ai) (midway single 0x00003C06#32 (.regaddr 2 .config .ai) 1 .ok []))).map
    fun t => t.readWindow 0x0C) = some 0x0000008E#32 := by decide

/-- 95_test_vectors L2.1: REGADDR 3, INPUT, NAI gives InvalidArgument. -/
theorem test_regaddr_of_port_3 : statusAfter (.regaddr 3 .input .nonAi) (started single 0x00000606#32) = some 0x00000104#32 := by
  decide

/-- 95_test_vectors L2.5: MOVE1 L's handoff write of port 0, `0:FF`. -/
theorem test_move1_handoff : traceAfter (.move1 .lighting) (midway single 0x00000110#32 (.move1 .lighting) 39 .ok [])
    = some [.busWrite 0 0x22#7 [0x04#8, 0xFF#8] .ok] := by decide

/-- 95_test_vectors L2.5: with MOVE1_HANDOFF = none the handoff write is absent. -/
theorem test_move1_without_handoff :
    traceAfter (.move1 .lighting) (midway { single with handoff := .none } 0x00000110#32 (.move1 .lighting) 39 .ok []) = some [] := by
  decide

/-- 95_test_vectors L1.5: MOVE1IN8 L writes 0xF7 at i = 3. -/
theorem test_move1in8_step_3 : traceAfter (.move1in8 .lighting) (midway single 0x00000111#32 (.move1in8 .lighting) 31 .ok [])
    = some [.busWrite 0 0x22#7 [0x04#8, 0xF7#8] .ok] := by decide

/-- 95_test_vectors L2.11: a no_ack ends the pattern. -/
theorem test_move1in8_aborts :
    statusAfter (.move1in8 .clearing) (midway single 0x00000011#32 (.move1in8 .clearing) 8 .noAck []) = some 0x00000304#32 := by
  decide

/-- 95_test_vectors L2.6: MOVE1IN4 L's fourth frame, 0x77. -/
theorem test_move1in4_last_frame : traceAfter (.move1in4 .lighting) (midway single 0x00000112#32 (.move1in4 .lighting) 31 .ok [])
    = some [.busWrite 0 0x22#7 [0x04#8, 0x77#8] .ok] := by decide

/-- 95_test_vectors L1.8: the accumulator becomes 0xFF at step i = 7. -/
theorem test_incr1in8_accumulator :
    accAfter (.incr1in8 .clearing) (midway single 0x00000013#32 (.incr1in8 .clearing) 70 .ok []) = some 0xFF#8 := by decide

/-- 95_test_vectors L2.7: INCR1IN8 L's fourth frame, 0xF0. -/
theorem test_incr1in8_frame : traceAfter (.incr1in8 .lighting) (midway single 0x00000113#32 (.incr1in8 .lighting) 35 .ok [])
    = some [.busWrite 0 0x22#7 [0x04#8, 0xF0#8] .ok] := by decide

/-- 95_test_vectors L2.8: DECR1IN8 C's resting byte, 0xFF. -/
theorem test_decr1in8_rest : traceAfter (.decr1in8 .clearing) (started single 0x00000014#32)
    = some [.busWrite 0 0x22#7 [0x04#8, 0xFF#8] .ok] := by decide

/-- 95_test_vectors L2.8: DECR1IN8 L's second frame, 0x03. -/
theorem test_decr1in8_frame : traceAfter (.decr1in8 .lighting) (midway single 0x00000114#32 (.decr1in8 .lighting) 17 .ok [])
    = some [.busWrite 0 0x22#7 [0x04#8, 0x03#8] .ok] := by decide

/-- 95_test_vectors L1.6: the Sleep between 0xAA and 0x55, with DELAY = 10. -/
theorem test_alternate_sleep :
    traceAfter .alternate { midway single 0x00000015#32 .alternate 6 .ok [] with delay := 10#32 } = some [.sleep 10#32] := by
  decide

/-- 95_test_vectors L1.6: 0x55 follows. -/
theorem test_alternate_second : traceAfter .alternate (midway single 0x00000015#32 .alternate 7 .ok [])
    = some [.busWrite 0 0x22#7 [0x04#8, 0x55#8] .ok] := by decide

/-- 95_test_vectors L2.10: an illegal word gives STATUS 0x00000404, and CMD reads it back. -/
theorem test_illegal_word : ((nextOf (State.reset.memWrite 0x00 4 0x00000115#32)).map
    fun t => (t.readWindow 0x08, t.readWindow 0x00)) = some (0x00000404#32, 0x00000115#32) := by decide

/-- 95_test_vectors L2.12: a busy write is dropped, and a busy STATUS reads 0x00000001. -/
theorem test_busy_write : ((nextOf ((started single 0x00000013#32).memWrite 0x04 4 500#32)).map
    fun t => (t.readWindow 0x04, t.readWindow 0x08)) = some (0x00000000#32, 0x00000001#32) := by decide

/-- 95_test_vectors P2: DEVCFG reads 0x00232202. -/
theorem test_devcfg : (started dual 0x00000001#32).readWindow 0x10 = 0x00232202#32 := by decide

/-- A word placed at reset runs as its command at the very next step. -/
theorem test_placed_word_runs : (nextOf (step (State.reset.withFetchWord 32 0x00000606))).map (fun t => t.status.toWord)
    = some 0x00000104#32 := by decide

/-! ### Witnesses: for every obligation with hypotheses, states and operands that meet them -/

theorem exists_next {o : Host.Outcome State Fault Refusal} (h : (nextOf o).isSome = true) : ∃ t, o = .next t := by
  cases o with
  | next t => exact ⟨t, rfl⟩
  | fault r => cases h
  | refused r => cases h

theorem exists_next_with {o : Host.Outcome State Fault Refusal} {p : State → Bool}
    (h : (nextOf o).any p = true) : ∃ t, o = .next t ∧ p t = true := by
  cases o with
  | next t => exact ⟨t, rfl, h⟩
  | fault r => cases h
  | refused r => cases h

/-- A state answers the next calls of a run, whatever its configuration and word. -/
theorem started_replyAt (c : Params) (w : Word) (k n : Nat) (h : k < 192) :
    (started c w).replyAt k n = .returns .ok [0x11#8, 0x22#8, 0x33#8] := by
  have : (started c w).replies[k]? = some (.returns .ok [0x11#8, 0x22#8, 0x33#8]) := by
    show (List.replicate 192 (Reply.returns .ok [0x11#8, 0x22#8, 0x33#8]))[k]? = _
    rw [List.getElem?_replicate, if_pos h]
  unfold State.replyAt
  rw [this]

theorem started_clockAt (c : Params) (w : Word) (k : Nat) (h : k < 32) : (started c w).clockAt k = .returns := by
  have : (started c w).clock[k]? = some .returns := by
    show (List.replicate 32 ClockReply.returns)[k]? = _
    rw [List.getElem?_replicate, if_pos h]
  unfold State.clockAt
  rw [this]

theorem started_busOk (c : Params) (w : Word) (n : Nat) (h : n ≤ 192) : (started c w).busOk n := fun k hk =>
  ⟨_, started_replyAt c w k 0 (by omega)⟩

theorem started_wakes (c : Params) (w : Word) (n : Nat) (h : n ≤ 32) : (started c w).wakes n := fun k hk =>
  started_clockAt c w k (by omega)

theorem started_callsReturn (c : Params) (w : Word) (n : Nat) (h : n ≤ 32) : (started c w).callsReturn n := by
  intro k hk
  refine ⟨fun b => ?_, ?_⟩
  · rw [started_replyAt c w k b (by omega)]
    exact fun h => nomatch h
  · rw [started_clockAt c w k (by omega)]
    exact fun h => nomatch h

theorem started_readsWhole (c : Params) (w : Word) : (started c w).readsWhole := by
  intro k data h
  have h : (List.replicate 192 (Reply.returns .ok [0x11#8, 0x22#8, 0x33#8]))[2 * k + 1]? = some (.returns .ok data) := h
  rw [List.getElem?_replicate] at h
  split at h
  · cases h; rfl
  · cases h

theorem witness_DecodeOfEncode : (Instr.regaddr 3 .config .ai).wellFormed = true ∧ (Instr.wrport 3 0xFF#8).wellFormed = true := by
  decide

theorem witness_EncodeOfDecode : decodeWord 0x00FF0602#32 = .ok (.wrport 3 0xFF#8) := rfl

/-- LegalWordsMatchTheTable: a word under a row, one under none, and the row of a decoded word. -/
theorem witness_LegalWords :
    ("REGADDR", (0x00000006#32, 0xFFFFC1FF#32)) ∈ Sys2Proof.Claims.matchMaskTable
      ∧ (0x00003E06#32 : Word) &&& 0xFFFFC1FF#32 = 0x00000006#32
      ∧ decodeWord 0x00003E06#32 = .ok (.regaddr 3 .config .ai) := ⟨by decide, by decide, rfl⟩

theorem witness_BlockReset : ({ started single 0x00000013#32 with turns := [.reset dual, .host] } : State).turns
    = .reset dual :: [.host] := rfl

/-- EveryStepKeepsTheInvariant, StepRefusesNoCommand: an idle state and a running one that step. -/
theorem witness_Invariant : (State.reset.inv ∧ ∃ t, step State.reset = .next t)
    ∧ (started dual 0x00000113#32).inv ∧ ∃ t, step (started dual 0x00000113#32) = .next t :=
  ⟨⟨⟨by simp [Status.inv, State.reset, Status.reset], rfl⟩, exists_next (by decide)⟩,
    started_inv (i := .incr1in8 .lighting) rfl, exists_next (by decide)⟩

/-- StepRefusesNoCommand: states that meet the invariant and take each of the two refusals. -/
theorem witness_Refusals :
    (State.inv { State.reset with host := [.read 0x100 4] }
      ∧ step { State.reset with host := [.read 0x100 4] } = .refused (.hostAccess 0x100 4))
    ∧ (State.inv { midway single 0x00000005#32 .dump 2 .ok [] with replies := [.returns .ok [0x11#8]] }
      ∧ step { midway single 0x00000005#32 .dump 2 .ok [] with replies := [.returns .ok [0x11#8]] } = .refused (.readLength 3 1)) :=
  ⟨⟨⟨by simp [Status.inv, State.reset, Status.reset], rfl⟩, rfl⟩,
    midway_inv (i := .dump) rfl (by decide) (by decide) (by decide), rfl⟩

/-- SequencerTurnRunsTheDecodedCommand: a listed turn, and none. -/
theorem witness_SequencerTurn :
    (started single 0x00000113#32).seq = .running (Run.start 0x00000113#32)
      ∧ decodeWord 0x00000113#32 = .ok (.incr1in8 .lighting) ∧ (started single 0x00000113#32).turns = []
      ∧ ({ started single 0x00000113#32 with turns := [.sequencer] } : State).turns = .sequencer :: [] :=
  ⟨rfl, rfl, rfl, rfl⟩

/-- StepAddsAtMostOneEvent, ConfigurationChangesOnlyAtReset. -/
theorem witness_Step : (∃ t, step (started single 0x00000001#32) = .next t)
    ∧ ∀ cfg ts, (started single 0x00000001#32).turns ≠ .reset cfg :: ts :=
  ⟨exists_next (by decide), fun _ _ h => nomatch h⟩

theorem witness_OnlyACmdWriteStartsACommand :
    ∃ t, step { State.reset with host := [.write 0x00 4 0x00000113#32] } = .next t
      ∧ t.seq = .running (Run.start 0x00000113#32) := ⟨_, rfl, rfl⟩

/-- OperandsAreFixedWhileRunning: a busy write of DELAY. -/
theorem witness_OperandsAreFixed :
    let s : State := { started single 0x00000013#32 with turns := [.host], host := [.write 0x04 4 500#32] }
    s.inv ∧ s.seq = .running (Run.start 0x00000013#32) ∧ (∃ t, step s = .next t) ∧ ∀ cfg ts, s.turns ≠ .reset cfg :: ts :=
  ⟨started_inv (i := .incr1in8 .clearing) rfl, rfl, exists_next (by decide), fun _ _ h => nomatch h⟩

/-- OnlyTheirCommandsWriteOutcfgResultAndDump: OUTCFG stays 1, OUTCFG becomes 1, RESULT changes, DUMP changes. -/
theorem witness_OnlyTheirCommands :
    (∃ t, step { State.reset with status := { Status.reset with outcfg := true } } = .next t)
    ∧ (∃ t, step (midway single 0x00000001#32 .cfgout 2 .ok []) = .next t ∧ t.status.outcfg = true)
    ∧ (∃ t, step (midway single 0x00003C06#32 (.regaddr 2 .config .ai) 1 .ok []) = .next t ∧ decide (t.result ≠ 0#8) = true)
    ∧ (∃ t, step (midway single 0x00000005#32 .dump 4 .ok [0x11#8, 0x22#8, 0x33#8]) = .next t
      ∧ decide (t.dump ≠ (started single 0x00000005#32).dump) = true) :=
  ⟨exists_next (by decide), exists_next_with (p := fun t => t.status.outcfg) (by decide), exists_next_with (by decide),
    exists_next_with (by decide)⟩

/-- CmdWriteLatches: idle, with an illegal word and with a legal one. -/
theorem witness_CmdWriteLatches : State.reset.status.busy = false
    ∧ decodeWord 0x00000115#32 = .error (.reservedBits 0x15#8) ∧ decodeWord 0x00000114#32 = .ok (.decr1in8 .lighting) :=
  ⟨rfl, rfl, rfl⟩

/-- The host window's obligations: admitted accesses at the ends of every range, and unadmitted ones. -/
theorem witness_Window :
    ([0x00, 0x04, 0x08, 0x0C, 0x10, 0x14, 0x18, 0x1C, 0x20, 0x3C, 0x40, 0x54, 0x58, 0xFC].all fun off => admitted off 4) = true
    ∧ State.reset.status.busy = false ∧ (started single 0x00000013#32).status.busy = true
    ∧ admitted 0x100 4 = false ∧ admitted 0x02 4 = false ∧ admitted 0x00 2 = false := by decide

theorem witness_WaitPolls : ({ State.reset with host := [.wait] } : State).host = .wait :: [] := rfl

theorem witness_PinsWritesTheString : (List.replicate 32 255).length ≤ 32 ∧ (∀ c ∈ List.replicate 32 255, c < 256)
    ∧ State.reset.status.busy = false := by decide

/-- The RegisterMap's obligations, at the last valid port and the first invalid one, and a word that carries it. -/
theorem witness_RegisterMap : decodeWord 0x00FF0602#32 = .ok (.wrport 3 0xFF#8) ∧ decodeWord 0x00003E06#32 = .ok (.regaddr 3 .config .ai) ∧ 2 < 3 ∧ regMap 2 .config .ai = some 0x8E#8 ∧ ¬ 3 < 3
    ∧ (started single 0x00000606#32).seq = .running (Run.start 0x00000606#32) ∧ (Run.start 0x00000606#32).pos = 0 :=
  ⟨rfl, rfl, by decide, by decide, by decide, rfl, rfl⟩

theorem witness_CommandCompletesAtItsEnd :
    (midway dual 0x00000015#32 .alternate 26 .ok []).seq = .running ⟨0x00000015#32, 26, .ok, [],
      (initialPattern 0x00000015#32).map fun p => patternAfter p ((program dual .alternate).take 26)⟩
    ∧ 26 = (program (midway dual 0x00000015#32 .alternate 26 .ok []).cfg .alternate).length := ⟨rfl, by decide⟩

/-- EveryCommandAnswersNext: a command at its start, and DUMP at a read. -/
theorem witness_EveryCommandAnswersNext :
    ((started dual 0x00000110#32).inv ∧ (started dual 0x00000110#32).callsReturn 1
      ∧ ∀ d n, (program dual (.move1 .lighting))[0]? = some (.busRead d n) → (started dual 0x00000110#32).brokenRead n = none)
    ∧ ((midway dual 0x00000005#32 .dump 2 .ok []).inv ∧ (midway dual 0x00000005#32 .dump 2 .ok []).callsReturn 1
      ∧ ∀ d n, (program dual .dump)[2]? = some (.busRead d n) → (midway dual 0x00000005#32 .dump 2 .ok []).brokenRead n = none) := by
  refine ⟨⟨started_inv (i := .move1 .lighting) rfl, started_callsReturn _ _ _ (by decide), fun d n h => ?_⟩,
    midway_inv (i := .dump) rfl (by decide) (by decide) (by decide), started_callsReturn dual 0x00000005#32 1 (by decide), fun d n h => ?_⟩
  · exact nomatch Option.some.inj h
  · cases Option.some.inj h
    rfl

/-- CheckRaisesTransportErrors: the check of device 1, for each result. -/
theorem witness_Check : ([CallResult.ok, .ioError, .noAck].all fun r => match (midway dual 0x005A0202#32 (.wrport 1 0x5A#8) 4 r []).seq with
    | .idle => false
    | .running run => run.result == r && (program dual (.wrport 1 0x5A#8))[run.pos]? == some (.check ⟨1, 0x23#7⟩)) = true := by
  decide

/-- ErrorEntryChangesOnlyStatus, CommandsRaiseTheirErrorsOnly: every kind of error a command raises. -/
theorem witness_Errors :
    (statusAfter (.regaddr 3 .config .ai) (started single 0x00003E06#32) = some 0x00000104#32)
    ∧ (statusAfter .setpins (started single 0x00000004#32) = some 0x00000104#32)
    ∧ (statusAfter .dump (midway dual 0x00000005#32 .dump 31 .ioError []) = some 0x00000A04#32)
    ∧ (statusAfter .dump (midway single 0x00000005#32 .dump 3 .noAck []) = some 0x00000304#32)
    ∧ (started single 0x00003E06#32).status.err = false := by decide

/-- CallThatNeverReturnsWaits: a write, a read and a Sleep that do not return. -/
theorem witness_Never :
    (State.replyAt 0 0 { started single 0x00000103#32 with replies := [.never] } = .never
      ∧ (program single (.setall .on))[0]? = some (.busWrite ⟨0, 0x22#7⟩ [.regAddr (.lit 0) .output .nonAi, .lit 0xFF#8])
      ∧ evalBytes State.reset.pinstr none [.regAddr (.lit 0) .output .nonAi, .lit 0xFF#8] = .ok [0x04#8, 0xFF#8])
    ∧ (State.replyAt 0 3 { midway single 0x00000005#32 .dump 2 .ok [] with replies := [.never] } = .never
      ∧ (program single .dump)[2]? = some (.busRead ⟨0, 0x22#7⟩ 3))
    ∧ (State.clockAt 0 { midway single 0x00000015#32 .alternate 6 .ok [] with clock := [.never] } = .never
      ∧ (program single .alternate)[6]? = some .sleep) :=
  ⟨⟨rfl, by decide, rfl⟩, ⟨rfl, by decide⟩, rfl, by decide⟩

/-- StatusDecidesNothing and the frames: every command steps. -/
theorem witness_Frames :
    ([(.cfgout, 0x00000001#32), (.wrport 2 0xFF#8, 0x00FF0402#32), (.setall .off, 0x00000003#32), (.setpins, 0x00000004#32),
      (.dump, 0x00000005#32), (.regaddr 2 .config .ai, 0x00003C06#32), (.move1 .lighting, 0x00000110#32),
      (.move1in8 .clearing, 0x00000011#32), (.move1in4 .lighting, 0x00000112#32), (.incr1in8 .clearing, 0x00000013#32),
      (.decr1in8 .lighting, 0x00000114#32), (.alternate, 0x00000015#32)].all fun (p : Instr × Word) =>
        (nextOf (exec p.1 (started dual p.2))).isSome) = true := by decide

/-- FrameOfDump: a statement that stores, to the last entry, and one that does not. -/
theorem witness_FrameOfDump :
    (program dual .dump)[55]? = some (.storeDump 23 2) ∧ (program dual .dump)[54]? = some (.storeDump 22 1)
    ∧ (nextOf (exec .dump (midway dual 0x00000005#32 .dump 55 .ok [0x0F#8, 0x0F#8, 0x0F#8]))).isSome = true
    ∧ (∀ k p, (program dual .dump)[0]? ≠ some (.storeDump k p)) :=
  ⟨by decide, by decide, by decide, fun _ _ h => nomatch Option.some.inj h⟩

/-- The whole-command obligations: any command's start, under any configuration, where all the calls it makes return. -/
theorem witness_WholeCommands (c : Params) (i : Instr) : (started c (encode i)).atStart i
    ∧ (∀ n, n ≤ 32 * c.ndev → (started c (encode i)).busOk n) ∧ (∀ n, n ≤ 24 → (started c (encode i)).wakes n) := by
  refine ⟨rfl, fun n h => started_busOk _ _ _ ?_, fun n h => started_wakes _ _ _ (by omega)⟩
  unfold Params.ndev at h
  split at h <;> omega

/-- EveryCommandRunsAsItsRule, CallsAreAlwaysAPrefixOfTheRule: DUMP and a pattern, from their starts. -/
theorem witness_EveryCommandRuns :
    ((started dual 0x00000005#32).atStart .dump ∧ (started dual 0x00000005#32).callsReturn ((started dual 0x00000005#32).calls .dump).length
      ∧ (started dual 0x00000005#32).readsWhole)
    ∧ ((started single 0x00000112#32).atStart (.move1in4 .lighting)
      ∧ (started single 0x00000112#32).callsReturn ((started single 0x00000112#32).calls (.move1in4 .lighting)).length)
    ∧ ∃ t, execTimes .cfgout 2 (started dual (encode .cfgout)) = .next t :=
  ⟨⟨rfl, started_callsReturn _ _ _ (by decide), started_readsWhole _ _⟩,
    ⟨rfl, started_callsReturn _ _ _ (by decide)⟩, exists_next (by decide)⟩

/-- SetpinsWritesTheThreeBytes, PinStringRoundTrip: 95_test_vectors L2.4's string for 0x81, 0x00, 0x01. -/
theorem witness_Setpins :
    let s : State := { started dual 0x00000004#32 with pinlen := 24#6, pinstr := pinChars "100000010000000000000001" }
    let b : Fin 3 → Byte := fun g => if g = 0 then 0x81#8 else if g = 1 then 0x00#8 else 0x01#8
    s.atStart .setpins ∧ s.pinlen = 24#6
    ∧ (∀ (g : Fin 3) (j : Fin 8), s.pinstr[8 * g.val + j.val]'(by omega)
      = if (b g).getLsbD (7 - j.val) then 0x31#8 else 0x30#8)
    ∧ s.busOk s.cfg.ndev :=
  ⟨rfl, rfl, by decide, started_busOk dual 0x00000004#32 2 (by decide)⟩

/-- SetpinsRejectsABadString: a wrong length, and a wrong last character. -/
theorem witness_SetpinsRejects : (started single 0x00000004#32).atStart .setpins ∧ (started single 0x00000004#32).pinlen ≠ 24#6
    ∧ ∃ k : Fin 24, (pinChars "11111111000000001111111 ")[k.val] ≠ 0x30#8 ∧ (pinChars "11111111000000001111111 ")[k.val] ≠ 0x31#8 :=
  ⟨rfl, by decide, 23, by decide⟩

theorem witness_DumpReadsEveryGroup : (started dual 0x00000005#32).atStart .dump
    ∧ ∀ k, k < 4 * (started dual 0x00000005#32).cfg.ndev →
      (∃ data, (started dual 0x00000005#32).replyAt (2 * k) 0 = .returns .ok data)
      ∧ (started dual 0x00000005#32).replyAt (2 * k + 1) 3 = .returns .ok [0x11#8, 0x22#8, 0x33#8] := by
  refine ⟨rfl, fun k hk => ?_⟩
  have : k < 8 := hk
  exact ⟨⟨_, started_replyAt dual _ _ 0 (by omega)⟩, started_replyAt dual _ _ 3 (by omega)⟩

/-- DecrIsIncrWithTheModeFlipped: both directions have runs. -/
theorem witness_DecrIsIncr : (∃ t, execTimes (.decr1in8 .clearing) 2 (started single 0x00000014#32) = .next t)
    ∧ ∃ t, execTimes (.incr1in8 .lighting) 2 (started single 0x00000113#32) = .next t :=
  ⟨exists_next (by decide), exists_next (by decide)⟩

/-- AccumulatorHoldsTheFill: the Sleep of step i = 7, for INCR1IN8 and for DECR1IN8. -/
theorem witness_Accumulator :
    ((midway single 0x00000113#32 (.incr1in8 .lighting) 77 .ok []).inv
      ∧ (program single (.incr1in8 .lighting))[77]? = some .sleep)
    ∧ (midway single 0x00000014#32 (.decr1in8 .clearing) 77 .ok []).inv
    ∧ ((initialPattern 0x00000014#32).map fun p => patternAfter p ((program single (.decr1in8 .clearing)).take 77))
      = some { acc := 0xFF#8, mode := .clearing, port := 0, i := 7 } :=
  ⟨⟨midway_inv rfl (by decide) (by decide) (by decide), by decide⟩,
    midway_inv rfl (by decide) (by decide) (by decide), by decide⟩

/-- BusTransactionsHaveTheseShapes: a pointer write, a port write, a burst, a read and a Sleep. -/
theorem witness_BusTransactions :
    traceAfter .dump (midway dual 0x00000005#32 .dump 49 .ok []) = some [.busWrite 1 0x23#7 [0x8C#8] .ok]
    ∧ traceAfter (.wrport 2 0xFF#8) (midway dual 0x00FF0402#32 (.wrport 2 0xFF#8) 3 .ok []) = some [.busWrite 1 0x23#7 [0x06#8, 0xFF#8] .ok]
    ∧ traceAfter .cfgout (started dual 0x00000001#32) = some [.busWrite 0 0x22#7 [0x8C#8, 0#8, 0#8, 0#8] .ok]
    ∧ traceAfter .dump (midway dual 0x00000005#32 .dump 51 .ok []) = some [.busRead 1 0x23#7 3 .ok [0x11#8, 0x22#8, 0x33#8]]
    ∧ traceAfter .alternate (midway dual 0x00000015#32 .alternate 25 .ok []) = some [.sleep 0#32] := by decide

/-- PatternCallCounts: a whole ALTERNATE on one chip, its fifteen steps. -/
theorem witness_PatternCallCounts : Sys2Proof.Claims.patternCounts single.handoff .alternate = some (6, 2)
    ∧ (started single 0x00000015#32).atStart .alternate
    ∧ ∃ t, execTimes .alternate 15 (started single 0x00000015#32) = .next t ∧ (decide (t.seq = .idle) && t.status.done) = true :=
  ⟨by decide, rfl, exists_next_with (by decide)⟩

end Sys2Proof.Tests
end

section
/-! What the locals and PatternState of a running command become by one statement, the rules by which STATUS and the
sequencer keep the invariant, and the invariant of every step (10_state R31, R32, R36, R43). -/

namespace Sys2Proof.Machine

/-! ### STATUS (10_state R43) -/

theorem Status.reset_inv (c : Params) : Status.reset.inv c := by
  simp [Status.inv, Status.reset]

theorem Status.errored_inv {c : Params} {code : ECode} {dev : Fin 2} (st : Status) (h : dev = 1 → c.ndev = 2) :
    (st.errored code dev).inv c := by
  simpa [Status.inv] using h

/-- A running block has no error, so its completion leaves none (30_encoding R112). -/
theorem Status.completed_inv {c : Params} {st : Status} (h : st.inv c) (hb : st.busy = true) : st.completed.inv c := by
  obtain ⟨_, hbe, _, hcode, hdev⟩ := h
  have he : st.err = false := by simpa [hb] using hbe
  exact ⟨by simp, by simp, by simp [he], hcode, hdev⟩

theorem Status.started_inv (c : Params) (st : Status) : st.clearForLatch.started.inv c := by
  simp [Status.inv]

theorem Status.configured_inv {c : Params} {st : Status} (h : st.inv c) : st.configured.inv c := h

/-! ### The locals of the pseudocode -/

/-- What `CallKnown` says of the locals `r` and `data` (40_register_map_and_bus R145, R147). -/
def CallKnown.Holds (c : CallKnown) (run : Run) : Prop :=
  (c.checked = true → run.result = .ok) ∧ (run.result = .ok → run.data.length = c.bytes)

/-- `run'` is what `run` becomes by the performed statement `st`: one position on, PatternState and the locals as the
statement leaves them (10_state R31, R32). -/
structure Stmt.Advances (st : Stmt) (run run' : Run) : Prop where
  cmd    : run'.cmd = run.cmd
  pos    : run'.pos = run.pos + 1
  ps     : run'.ps = run.ps.map (Stmt.patternEffect · st)
  locals : ∀ c : CallKnown, c.Holds run → (st.callEffect c).Holds run'

theorem Run.inv_iff {c : Params} {run : Run} {i : Instr} (hd : decodeWord run.cmd = .ok i) :
    run.inv c ↔ run.pos ≤ (program c i).length
      ∧ run.ps = (initialPattern run.cmd).map (patternAfter · ((program c i).take run.pos))
      ∧ (knownAfter ((program c i).take run.pos)).Holds run := by
  constructor
  · rintro ⟨j, hj, h⟩
    rw [hd] at hj
    cases hj
    exact h
  · exact fun h => ⟨i, hd, h⟩

/-- A latched legal word is at the start of its command (30_encoding R110). -/
theorem Run.start_inv {w : Word} {i : Instr} (c : Params) (hd : decodeWord w = .ok i) : (Run.start w).inv c := by
  refine (Run.inv_iff (i := i) hd).mpr ⟨Nat.zero_le _, ?_, ?_⟩
  · cases h : initialPattern w <;> simp [Run.start, patternAfter, h]
  · simp [Run.start, knownAfter, CallKnown.Holds]

/-- The performed statement takes the invariant of the run one position on. -/
theorem Stmt.Advances.inv {c : Params} {i : Instr} {st : Stmt} {run run' : Run} (h : st.Advances run run')
    (hd : decodeWord run.cmd = .ok i) (hst : (program c i)[run.pos]? = some st) (hi : run.inv c) : run'.inv c := by
  obtain ⟨_, hps, hknown⟩ := (Run.inv_iff hd).mp hi
  refine (Run.inv_iff (i := i) (by rw [h.cmd, hd])).mpr ⟨?_, ?_, ?_⟩
  · rw [h.pos]
    exact lt_of_getElem?_eq_some hst
  · rw [h.ps, h.pos, h.cmd, hps, Option.map_map]
    exact congrArg (Option.map · _) (funext fun p => (patternAfter_take_succ hst p).symm)
  · rw [h.pos, knownAfter_take_succ hst]
    exact h.locals _ hknown

/-! ### One statement -/

/-- A statement that touches neither PatternState nor the locals only moves the position on. -/
theorem Stmt.Advances.plain {st : Stmt} (run : Run) (hps : ∀ p, st.patternEffect p = p)
    (hc : ∀ c, st.callEffect c = c) : st.Advances run { run with pos := run.pos + 1 } :=
  ⟨rfl, rfl, by simp [hps], fun c h => by rw [hc]; exact h⟩

/-- What a statement makes of the sequencer and of STATUS: it waits, it raises, or it goes on. Only a failed check names
a device (60_exceptions R261). -/
inductive Stmt.Goes (st : Stmt) (run : Run) (s t : State) : Prop where
  | waits (h : t = s)
  | raises (code : ECode) (dev : Fin 2) (hd : dev = 0 ∨ ∃ d, st = .check d ∧ dev = d.idx) (h : t = s.raiseError code dev)
  | advances (run' : Run) (hr : st.Advances run run') (hseq : t.seq = .running run')
      (hst : t.status = s.status ∨ t.status = s.status.configured)

theorem effect_goes {st : Stmt} {run : Run} {s t : State} (h : Stmt.Effect run s st t) : st.Goes run s t := by
  cases h with
  | waits => exact .waits rfl
  | badPort => exact .raises _ 0 (.inl rfl) rfl
  | badLen => exact .raises _ 0 (.inl rfl) rfl
  | badChar => exact .raises _ 0 (.inl rfl) rfl
  | valueRaises code => exact .raises code 0 (.inl rfl) rfl
  | payloadRaises code => exact .raises code 0 (.inl rfl) rfl
  | callFailed d code => exact .raises code d.idx (.inr ⟨d, rfl, rfl⟩) rfl
  | passes _ h =>
    refine .advances { run with pos := run.pos + 1 } ?_ rfl (.inl rfl)
    obtain ⟨p, rfl, _⟩ | ⟨rfl, _⟩ | ⟨k, rfl, _⟩ | ⟨d, rfl, hok⟩ := h
    · exact .plain run (fun _ => rfl) fun _ => rfl
    · exact .plain run (fun _ => rfl) fun _ => rfl
    · exact .plain run (fun _ => rfl) fun _ => rfl
    · exact ⟨rfl, rfl, Option.map_id'.symm, fun _ hc => ⟨fun _ => hok, hc.2⟩⟩
  | result => exact .advances _ (.plain run (fun _ => rfl) fun _ => rfl) rfl (.inl rfl)
  | outcfg => exact .advances _ (.plain run (fun _ => rfl) fun _ => rfl) rfl (.inr rfl)
  | wrote d payload bytes r data =>
    exact .advances { run with pos := run.pos + 1, result := r, data := [] }
      ⟨rfl, rfl, Option.map_id'.symm, fun _ _ => ⟨nofun, fun _ => rfl⟩⟩ rfl (.inl rfl)
  | read d n r data hb hr =>
    refine .advances { run with pos := run.pos + 1, result := r, data := readData r data }
      ⟨rfl, rfl, Option.map_id'.symm, fun _ _ => ⟨nofun, ?_⟩⟩ rfl (.inl rfl)
    rintro rfl
    exact replyAt_zero_length hb hr
  | stored => exact .advances _ (.plain run (fun _ => rfl) fun _ => rfl) rfl (.inl rfl)
  | slept => exact .advances _ (.plain run (fun _ => rfl) fun _ => rfl) rfl (.inl rfl)
  | pattern _ f p hp h =>
    obtain ⟨q, rfl, rfl⟩ | ⟨j, rfl, rfl⟩ | ⟨rfl, rfl⟩ := h <;>
      exact .advances { run with pos := run.pos + 1, ps := some (_ : PatternState) }
        ⟨rfl, rfl, by rw [hp]; rfl, fun _ hc => hc⟩ rfl (.inl rfl)

/-! ### The whole state -/

theorem State.seqInv_running {s : State} {run : Run} (h : s.seq = .running run) :
    s.seqInv ↔ s.status.busy = true ∧ s.cmd = run.cmd ∧ run.inv s.cfg := by
  unfold State.seqInv; rw [h]

/-- The invariant looks at the sequencer, CMD, STATUS and the configuration only. -/
theorem State.inv_congr {s t : State} (hseq : t.seq = s.seq) (hcmd : t.cmd = s.cmd) (hst : t.status = s.status)
    (hcfg : t.cfg = s.cfg) (h : s.inv) : t.inv := by
  unfold State.inv State.seqInv at h ⊢
  rw [hseq, hcmd, hst, hcfg]
  exact h

theorem State.raiseError_inv {code : ECode} {dev : Fin 2} (s : State) (h : dev = 1 → s.cfg.ndev = 2) :
    (s.raiseError code dev).inv :=
  ⟨Status.errored_inv s.status h, rfl⟩

theorem State.complete_inv {s : State} (h : s.status.inv s.cfg) (hb : s.status.busy = true) : s.complete.inv :=
  ⟨Status.completed_inv h hb, rfl⟩

theorem State.blockReset_inv (c : Params) (s : State) : (s.blockReset c).inv := ⟨Status.reset_inv c, rfl⟩

theorem State.latch_inv (s : State) (w : Word) : (s.latch w).inv := by
  obtain ⟨_, _, h⟩ | ⟨i, hd, h⟩ := latch_cases s w <;> rw [h]
  · exact ⟨Status.errored_inv _ nofun, rfl⟩
  · exact ⟨Status.started_inv s.cfg s.status, rfl, rfl, Run.start_inv s.cfg hd⟩

theorem WindowWrite.inv {s t : State} {off : Nat} {w : Word} (hw : WindowWrite s off w t) (h : s.inv) : t.inv := by
  cases hw with
  | ignored => exact h
  | cmd => exact State.latch_inv s w
  | delay => exact State.inv_congr rfl rfl rfl rfl h
  | pinlen => exact State.inv_congr rfl rfl rfl rfl h
  | pinstr => exact State.inv_congr rfl rfl rfl rfl h

theorem State.hostTurn_inv {s t : State} (h : s.inv) (ht : s.hostTurn = .next t) : t.inv := by
  obtain ⟨_, rfl⟩ | ⟨off, v, rest, _, _, rfl⟩ | ⟨off, rest, _, _, rfl⟩ | ⟨rest, host', _, rfl⟩ := hostTurn_next ht
  · exact h
  · exact (writeWindow_cases _ off v).inv (State.inv_congr rfl rfl rfl rfl h)
  · exact State.inv_congr rfl rfl rfl rfl h
  · exact State.inv_congr rfl rfl rfl rfl h

/-- One statement of the command a word spells keeps the invariant. -/
theorem State.effect_inv {s t : State} {run : Run} {i : Instr} {st : Stmt} (h : s.inv) (hs : s.seq = .running run)
    (hd : decodeWord run.cmd = .ok i) (hst : (program s.cfg i)[run.pos]? = some st) (he : Stmt.Effect run s st t) :
    t.inv := by
  obtain ⟨hstatus, hseq⟩ := id h
  obtain ⟨hbusy, hcmd, hrun⟩ := (State.seqInv_running hs).mp hseq
  have hsame := effect_sameOperands he
  cases effect_goes he with
  | waits ht => exact ht ▸ h
  | raises code dev hdev ht =>
    rw [ht]
    refine State.raiseError_inv s fun h1 => ?_
    obtain rfl | ⟨d, rfl, rfl⟩ := hdev
    · cases h1
    · exact ndev_of_device_one (program_devices s.cfg i _ (List.mem_of_getElem? hst)) h1
  | advances run' hr hseq' hstatus' =>
    have hcfg := hsame.cfg
    refine ⟨?_, (State.seqInv_running hseq').mpr ⟨?_, ?_, ?_⟩⟩
    · rw [hcfg]
      obtain e | e := hstatus' <;> rw [e]
      · exact hstatus
      · exact Status.configured_inv hstatus
    · obtain e | e := hstatus' <;> rw [e]
      · exact hbusy
      · exact hbusy
    · rw [hsame.cmd, hcmd, hr.cmd]
    · rw [hcfg]
      exact hr.inv hd hst hrun

theorem State.sequencerTurn_inv {s t : State} (h : s.inv) (ht : s.sequencerTurn = .next t) : t.inv := by
  obtain ⟨_, rfl⟩ | ⟨run, i, hs, hd, ⟨st, hst, he⟩ | ⟨_, rfl⟩⟩ | ⟨run, e, _, _, rfl⟩ := sequencerTurn_next ht
  · exact h
  · exact State.effect_inv h hs hd hst he
  · obtain ⟨hstatus, hseq⟩ := h
    obtain ⟨hbusy, _, _⟩ := (State.seqInv_running hs).mp hseq
    exact State.complete_inv hstatus hbusy
  · exact State.raiseError_inv s nofun

/-! ### The obligations on the invariant -/

/-- Settles O6. -/
theorem resetMeetsTheInvariant : Obligations.ResetMeetsTheInvariant := ⟨Status.reset_inv _, rfl⟩

/-- Settles O7: each kind of turn keeps the invariant, the sequencer's because one statement takes PatternState and the
locals on exactly as the invariant counts them. -/
theorem everyStepKeepsTheInvariant : Obligations.EveryStepKeepsTheInvariant := by
  intro s t h hstep
  have h' : State.inv { s with turns := s.turns.tail } := State.inv_congr rfl rfl rfl rfl h
  obtain ht | ht | ⟨cfg, ts, _, rfl⟩ := step_next hstep
  · exact State.hostTurn_inv h' ht
  · exact State.sequencerTurn_inv h' ht
  · exact State.blockReset_inv cfg _

end Sys2Proof.Machine
end

section
/-! What a turn other than a block reset leaves unchanged: the configuration (10_state R34), and OUTCFG, RESULT and DUMP
but for the three statements that store to them (R43, R44, R48). -/

namespace Sys2Proof.Machine

/-! ### The host's turn -/

/-- What no host access writes. -/
structure State.HostKeeps (s t : State) : Prop where
  cfg    : t.cfg = s.cfg
  outcfg : t.status.outcfg = s.status.outcfg
  result : t.result = s.result
  dump   : t.dump = s.dump

theorem latch_hostKeeps (s : State) (w : Word) : s.HostKeeps (s.latch w) := by
  obtain ⟨_, _, h⟩ | ⟨_, _, h⟩ := latch_cases s w <;> rw [h] <;> exact ⟨rfl, rfl, rfl, rfl⟩

theorem WindowWrite.hostKeeps {s t : State} {off : Nat} {w : Word} (h : WindowWrite s off w t) : s.HostKeeps t := by
  cases h with
  | cmd => exact latch_hostKeeps s w
  | ignored => exact ⟨rfl, rfl, rfl, rfl⟩
  | delay => exact ⟨rfl, rfl, rfl, rfl⟩
  | pinlen => exact ⟨rfl, rfl, rfl, rfl⟩
  | pinstr => exact ⟨rfl, rfl, rfl, rfl⟩

theorem hostTurn_hostKeeps {s t : State} (h : s.hostTurn = .next t) : s.HostKeeps t := by
  obtain ⟨_, rfl⟩ | ⟨off, v, rest, _, _, rfl⟩ | ⟨off, rest, _, _, rfl⟩ | ⟨rest, host', _, rfl⟩ := hostTurn_next h
  · exact ⟨rfl, rfl, rfl, rfl⟩
  · obtain ⟨hcfg, houtcfg, hresult, hdump⟩ :=
      (writeWindow_cases (State.log (.hostWrite off v) { s with host := rest }) off v).hostKeeps
    exact ⟨hcfg, houtcfg, hresult, hdump⟩
  · exact ⟨rfl, rfl, rfl, rfl⟩
  · exact ⟨rfl, rfl, rfl, rfl⟩

/-! ### Which command stores to which register -/

/-- Whether a statement may stand in a command's program by what it stores to: OUTCFG is CFGOUT's, RESULT is REGADDR's
and DUMP is DUMP's. -/
def Stmt.allowedIn (i : Instr) : Stmt → Bool
  | .setOutcfg => i == .cfgout
  | .setResult _ => (i matches .regaddr _ _ _)
  | .storeDump _ _ => i == .dump
  | _ => true

section
variable (i : Instr) (c : Params)

@[simp] theorem writeReg_allowed (addr : ByteExpr) (data : List ByteExpr) :
    (writeReg c addr data).all (Stmt.allowedIn i) = true := by
  simp [writeReg, Stmt.allowedIn]

@[simp] theorem writePort_allowed (p : PortExpr) (b : ByteExpr) : (writePort c p b).all (Stmt.allowedIn i) = true :=
  writeReg_allowed i c _ _

@[simp] theorem setAll_allowed (b : ByteExpr) : (setAll c b).all (Stmt.allowedIn i) = true := by
  simp only [setAll, List.all_append, writePort_allowed, Bool.and_self]

@[simp] theorem frame_allowed (b : ByteExpr) : (frame c b).all (Stmt.allowedIn i) = true := by
  simp only [frame, List.all_append, setAll_allowed]
  simp [Stmt.allowedIn]

@[simp] theorem framed_allowed (pol : Polarity) (frames : List Stmt) :
    (framed c pol frames).all (Stmt.allowedIn i) = frames.all (Stmt.allowedIn i) := by
  simp only [framed, List.all_append, setAll_allowed, Bool.true_and, Bool.and_true]

@[simp] theorem handoffWrite_allowed (p : Fin 3) : (handoffWrite c p).all (Stmt.allowedIn i) = true := by
  unfold handoffWrite
  split
  · exact writePort_allowed i c _ _
  · rfl

@[simp] theorem move1Port_allowed (p : Fin 3) : (move1Port c p).all (Stmt.allowedIn i) = true := by
  rw [move1Port, List.all_append, handoffWrite_allowed]
  simp [Stmt.allowedIn]

end

/-- Every command stores to its own registers only. -/
theorem program_allowed (c : Params) (i : Instr) : (program c i).all (Stmt.allowedIn i) = true := by
  cases i with
  | cfgout => simp [program, cfgoutProgram, Stmt.allowedIn]
  | wrport p b => simp [program, wrportProgram, Stmt.allowedIn]
  | setall l => exact setAll_allowed _ c _
  | setpins => simp [program, setpinsProgram, Stmt.allowedIn]
  | dump => simp [program, dumpProgram, dumpGroup, readReg, Stmt.allowedIn]
  | regaddr p f m => simp [program, regaddrProgram, Stmt.allowedIn]
  | move1 m => simp [program, move1Program]
  | move1in8 m => simp [program, move1in8Program, Stmt.allowedIn]
  | move1in4 m => simp [program, move1in4Program, Stmt.allowedIn]
  | incr1in8 m => simp [program, incr1in8Program, fillProgram, Stmt.allowedIn]
  | decr1in8 m => simp [program, decr1in8Program, fillProgram, Stmt.allowedIn]
  | alternate => simp [program, alternateProgram]

theorem allowed_of_program {c : Params} {i : Instr} {k : Nat} {st : Stmt} (h : (program c i)[k]? = some st) :
    st.allowedIn i = true :=
  List.all_eq_true.mp (program_allowed c i) st (List.mem_of_getElem? h)

theorem setOutcfg_allowed {i : Instr} (h : Stmt.allowedIn i .setOutcfg = true) : i = .cfgout := eq_of_beq h

theorem setResult_allowed {i : Instr} {e : ByteExpr} (h : Stmt.allowedIn i (.setResult e) = true) :
    ∃ p f m, i = .regaddr p f m := by
  match i, h with
  | .regaddr p f m, _ => exact ⟨p, f, m, rfl⟩

theorem storeDump_allowed {i : Instr} {k : Fin 24} {p : Nat} (h : Stmt.allowedIn i (.storeDump k p) = true) :
    i = .dump := eq_of_beq h

/-! ### One statement -/

/-- The statement that stores is the one that stands for the register. -/
structure Stmt.Stores (st : Stmt) (s t : State) : Prop where
  outcfg : t.status.outcfg = s.status.outcfg ∨ t.status.outcfg = true ∧ st = .setOutcfg
  result : t.result = s.result ∨ ∃ e, st = .setResult e
  dump   : t.dump = s.dump ∨ ∃ k p, st = .storeDump k p

theorem effect_stores {st : Stmt} {run : Run} {s t : State} (h : Stmt.Effect run s st t) : st.Stores s t := by
  cases h with
  | outcfg => exact ⟨.inr ⟨rfl, rfl⟩, .inl rfl, .inl rfl⟩
  | result e => exact ⟨.inl rfl, .inr ⟨e, rfl⟩, .inl rfl⟩
  | stored k p => exact ⟨.inl rfl, .inl rfl, .inr ⟨k, p, rfl⟩⟩
  | _ => exact ⟨.inl rfl, .inl rfl, .inl rfl⟩

/-- What the sequencer's turn can change of OUTCFG, RESULT and DUMP, and which command it then runs. -/
structure State.OwnStores (s t : State) : Prop where
  outcfg : t.status.outcfg = s.status.outcfg
    ∨ t.status.outcfg = true ∧ ∃ run, s.seq = .running run ∧ decodeWord run.cmd = .ok .cfgout
  result : t.result = s.result ∨ ∃ run p f m, s.seq = .running run ∧ decodeWord run.cmd = .ok (.regaddr p f m)
  dump   : t.dump = s.dump ∨ ∃ run, s.seq = .running run ∧ decodeWord run.cmd = .ok .dump

theorem State.HostKeeps.ownStores {s t : State} (h : s.HostKeeps t) : s.OwnStores t :=
  ⟨.inl h.outcfg, .inl h.result, .inl h.dump⟩

theorem sequencerTurn_ownStores {s t : State} (h : s.sequencerTurn = .next t) : s.OwnStores t := by
  obtain ⟨_, rfl⟩ | ⟨run, i, hs, hd, ⟨st, hst, he⟩ | ⟨_, rfl⟩⟩ | ⟨run, e, _, _, rfl⟩ := sequencerTurn_next h
  · exact ⟨.inl rfl, .inl rfl, .inl rfl⟩
  · have ha := allowed_of_program hst
    obtain ⟨houtcfg, hresult, hdump⟩ := effect_stores he
    refine ⟨houtcfg.imp_right ?_, hresult.imp_right ?_, hdump.imp_right ?_⟩
    · rintro ⟨h1, rfl⟩
      exact ⟨h1, run, hs, setOutcfg_allowed ha ▸ hd⟩
    · rintro ⟨e, rfl⟩
      obtain ⟨p, f, m, rfl⟩ := setResult_allowed ha
      exact ⟨run, p, f, m, hs, hd⟩
    · rintro ⟨k, p, rfl⟩
      exact ⟨run, hs, storeDump_allowed ha ▸ hd⟩
  · exact ⟨.inl rfl, .inl rfl, .inl rfl⟩
  · exact ⟨.inl rfl, .inl rfl, .inl rfl⟩

theorem sequencerTurn_cfg {s t : State} (h : s.sequencerTurn = .next t) : t.cfg = s.cfg := by
  obtain ⟨_, rfl⟩ | ⟨_, _, _, _, ⟨_, _, he⟩ | ⟨_, rfl⟩⟩ | ⟨_, _, _, _, rfl⟩ := sequencerTurn_next h
  · rfl
  · exact (effect_sameOperands he).cfg
  · rfl
  · rfl

/-! ### The obligations -/

/-- A step that is no block reset is a turn of the host or of the sequencer. -/
theorem step_next_of_no_reset {s t : State} (h : step s = .next t) (hr : ∀ cfg ts, s.turns ≠ .reset cfg :: ts) :
    State.hostTurn { s with turns := s.turns.tail } = .next t
    ∨ State.sequencerTurn { s with turns := s.turns.tail } = .next t := by
  obtain ht | ht | ⟨cfg, ts, hts, _⟩ := step_next h
  · exact .inl ht
  · exact .inr ht
  · exact absurd hts (hr cfg ts)

/-- Settles O12: neither the host's turn nor the sequencer's writes the configuration. -/
theorem configurationChangesOnlyAtReset : Obligations.ConfigurationChangesOnlyAtReset := by
  intro s t h hr
  obtain ht | ht := step_next_of_no_reset h hr
  · exact (hostTurn_hostKeeps ht).cfg
  · exact (sequencerTurn_cfg ht :)

/-- Settles O14: the host's turn writes none of the three, and the sequencer's only by a statement of the register's own
command. -/
theorem onlyTheirCommandsWriteOutcfgResultAndDump : Obligations.OnlyTheirCommandsWriteOutcfgResultAndDump := by
  intro s t h hr
  have hown : State.OwnStores { s with turns := s.turns.tail } t := by
    obtain ht | ht := step_next_of_no_reset h hr
    · exact (hostTurn_hostKeeps ht).ownStores
    · exact sequencerTurn_ownStores ht
  obtain ⟨houtcfg, hresult, hdump⟩ := hown
  refine ⟨fun h1 => ?_, fun h0 h1 => ?_, hresult.resolve_left, hdump.resolve_left⟩
  · exact houtcfg.elim (fun e => e.trans h1) And.left
  · exact houtcfg.elim (fun e => absurd (h0.symm.trans (e.symm.trans h1)) nofun) And.right

end Sys2Proof.Machine
end

section
/-! No command's step reads STATUS (10_state R51): with another STATUS it makes the same change to everything else. -/

namespace Sys2Proof.Machine

/-- The state with another STATUS. -/
def State.withStatus (st : Status) (s : State) : State := { s with status := st }

/-- `o'` answers what `o` answers, but for STATUS. -/
def SameButStatus (o o' : Host.Outcome State Fault Refusal) : Prop :=
  ∀ t, o = .next t → ∃ st', o' = .next (t.withStatus st')

theorem SameButStatus.next {t : State} (st' : Status) : SameButStatus (.next t) (.next (t.withStatus st')) := by
  intro u h
  cases h
  exact ⟨st', rfl⟩

theorem SameButStatus.refused {r : Refusal} (o' : Host.Outcome State Fault Refusal) : SameButStatus (.refused r) o' := by
  intro t h
  cases h

section
variable (run : Run) (s : State) (st : Status)

theorem checkArgument_sameButStatus (valid : Bool) :
    SameButStatus (.next (s.checkArgument valid run)) (.next ((s.withStatus st).checkArgument valid run)) := by
  cases valid
  · exact .next (t := s.raiseError .invalidArgument 0) (st.errored .invalidArgument 0)
  · exact .next (t := s.advance run) st

/-- A value statement, given that going on is the same but for STATUS. -/
theorem withValue_sameButStatus {α : Type} (v : Except Stop α) {go go' : α → State}
    (h : ∀ a, SameButStatus (.next (go a)) (.next (go' a))) :
    SameButStatus (withValue v s go) (withValue v (s.withStatus st) go') := by
  match v with
  | .ok a => exact h a
  | .error (.raise code) => exact .next (t := s.raiseError code 0) (st.errored code 0)
  | .error (.refuse _) => exact .refused _

theorem busWrite_withStatus (d : Device) (bytes : List Byte) :
    (s.withStatus st).busWrite d bytes run = (s.busWrite d bytes run).withStatus st := by
  have hr : (s.withStatus st).nextReply 0 = s.nextReply 0 := rfl
  unfold State.busWrite
  rw [hr]
  split <;> rfl

theorem busRead_withStatus (d : Device) (n : Nat) :
    (s.withStatus st).busRead d n run = (s.busRead d n run).withStatus st := by
  have hr : (s.withStatus st).nextReply n = s.nextReply n := rfl
  unfold State.busRead
  rw [hr]
  split <;> rfl

theorem sleep_withStatus : (s.withStatus st).sleep run = (s.sleep run).withStatus st := by
  have hr : (s.withStatus st).nextClock = s.nextClock := rfl
  unfold State.sleep
  rw [hr]
  split <;> rfl

theorem updatePattern_sameButStatus (f : PatternState → PatternState) :
    SameButStatus (s.updatePattern f run) ((s.withStatus st).updatePattern f run) := by
  unfold State.updatePattern
  split
  · exact .next (t := State.advance _ s) st
  · exact .refused _

theorem perform_sameButStatus (x : Stmt) : SameButStatus (x.perform run s) (x.perform run (s.withStatus st)) := by
  cases x with
  | checkPort p => exact checkArgument_sameButStatus run s st _
  | checkPinLen => exact checkArgument_sameButStatus run s st _
  | checkPinChar k => exact checkArgument_sameButStatus run s st _
  | setResult e =>
    exact withValue_sameButStatus s st _ fun b => .next (t := State.advance run { s with result := b }) st
  | setOutcfg => exact .next (t := State.advance run { s with status := s.status.configured }) st.configured
  | busWrite d payload =>
    refine withValue_sameButStatus s st _ fun bytes => ?_
    rw [busWrite_withStatus]
    exact .next st
  | busRead d n =>
    have hb : (s.withStatus st).brokenRead n = s.brokenRead n := rfl
    simp only [Stmt.perform, hb, busRead_withStatus]
    split
    · exact .refused _
    · exact .next st
  | check d =>
    simp only [Stmt.perform]
    split
    · exact .next (t := s.raiseError _ d.idx) (st.errored _ d.idx)
    · exact .next (t := s.advance run) st
  | storeDump k p =>
    simp only [Stmt.perform]
    split
    · exact .next (t := State.advance run { s with dump := s.dump.set k _ }) st
    · exact .refused _
  | sleep =>
    simp only [Stmt.perform, sleep_withStatus]
    exact .next st
  | setPort q => exact updatePattern_sameButStatus run s st _
  | setI j => exact updatePattern_sameButStatus run s st _
  | fillAcc => exact updatePattern_sameButStatus run s st _

theorem perform_program_sameButStatus (prog : List Stmt) :
    SameButStatus (perform prog s) (perform prog (s.withStatus st)) := by
  have hseq : (s.withStatus st).seq = s.seq := rfl
  unfold perform
  rw [hseq]
  split
  · exact .refused _
  · rename_i run _
    split
    · exact perform_sameButStatus run s st _
    · exact .next (t := s.complete) st.completed

end

/-- Settles O34: STATUS is not among what the statement at the position reads, and the position does not depend on it. -/
theorem statusDecidesNothing : Obligations.StatusDecidesNothing := by
  intro i s t st h
  rw [exec_eq_perform] at h ⊢
  exact perform_program_sameButStatus s st (program s.cfg i) t h

end Sys2Proof.Machine
end

section
/-! The host window (10_state R40 to R50): what an admitted access does, what each offset reads, and what a write of an
operand register leaves. -/

namespace Sys2Proof.Machine

/-! ### Admitted accesses -/

theorem memRead_admitted {off width : Nat} (s : State) (h : admitted off width = true) :
    s.memRead off width = .next (s.log (.hostRead off (s.readWindow off))) := by
  rw [State.memRead, if_pos h]

theorem memWrite_admitted {off width : Nat} (s : State) (v : Word) (h : admitted off width = true) :
    s.memWrite off width v = .next ((s.log (.hostWrite off v)).writeWindow off v) := by
  rw [State.memWrite, if_pos h]

/-- A write that the block ignores (10_state R43 to R45, R48 to R50). -/
theorem writeWindow_ignored {s : State} {off : Nat} (w : Word)
    (h : s.status.busy = true ∨ (off ≠ 0x00 ∧ off ≠ 0x04 ∧ off ≠ 0x14 ∧ ¬(0x20 ≤ off ∧ off < 0x40))) :
    s.writeWindow off w = s := by
  obtain hb | ⟨h0, h4, h14, h20⟩ := h
  · rw [State.writeWindow, if_pos hb]
  · rw [State.writeWindow, if_neg h0, if_neg h4, if_neg h14, dif_neg h20, ite_self]

/-- An ignored write leaves its event only. -/
theorem memWrite_ignored {s : State} {off : Nat} (v : Word) (ha : admitted off 4 = true)
    (h : s.status.busy = true ∨ (off ≠ 0x00 ∧ off ≠ 0x04 ∧ off ≠ 0x14 ∧ ¬(0x20 ≤ off ∧ off < 0x40))) :
    s.memWrite off 4 v = .next (s.log (.hostWrite off v)) := by
  rw [memWrite_admitted s v ha]
  exact congrArg _ (writeWindow_ignored v h)

/-- Settles O16. -/
theorem busyWritesAreIgnored : Obligations.BusyWritesAreIgnored := fun s off v hb ha =>
  ⟨⟨s.log (.hostWrite off v), memWrite_ignored v ha (.inl hb), rfl⟩, memRead_admitted s ha⟩

/-- Settles O17. -/
theorem readOnlyAndReservedOffsetsIgnoreWrites : Obligations.ReadOnlyAndReservedOffsetsIgnoreWrites := by
  intro s off v ha hoff
  exact ⟨s.log (.hostWrite off v), memWrite_ignored v ha (.inr (by omega)), rfl⟩

/-! ### What an offset reads -/

theorem readWindow_zero (s : State) : s.readWindow 0x00 = s.cmd := rfl

theorem readWindow_delay (s : State) : s.readWindow 0x04 = s.delay := rfl

theorem readWindow_status (s : State) : s.readWindow 0x08 = s.status.toWord := rfl

theorem readWindow_result (s : State) : s.readWindow 0x0C = s.result.setWidth 32 := rfl

theorem readWindow_devcfg (s : State) : s.readWindow 0x10 = devcfgWord s.cfg := rfl

theorem readWindow_pinlen (s : State) : s.readWindow 0x14 = s.pinlen.setWidth 32 := rfl

theorem readWindow_reserved {off : Nat} (s : State) (h : off = 0x18 ∨ off = 0x1C ∨ 0x58 ≤ off) :
    s.readWindow off = 0#32 := by
  unfold State.readWindow
  iterate 6 rw [if_neg (by omega)]
  rw [dif_neg (by omega), dif_neg (by omega)]

theorem readWindow_pinstr (s : State) (j : Fin 8) : s.readWindow (0x20 + 4 * j.val) = pinstrWord s.pinstr j := by
  have hj : (⟨(0x20 + 4 * j.val - 0x20) / 4, by omega⟩ : Fin 8) = j := Fin.ext (by dsimp only; omega)
  unfold State.readWindow
  iterate 6 rw [if_neg (by omega)]
  rw [dif_pos (by omega), hj]

theorem readWindow_dump (s : State) (j : Fin 6) : s.readWindow (0x40 + 4 * j.val) = dumpWord s.dump j := by
  have hj : (⟨(0x40 + 4 * j.val - 0x40) / 4, by omega⟩ : Fin 6) = j := Fin.ext (by dsimp only; omega)
  unfold State.readWindow
  iterate 6 rw [if_neg (by omega)]
  rw [dif_neg (by omega), dif_pos (by omega), hj]

/-! ### The words of the window, bit by bit and lane by lane -/

/-- STATUS's layout (10_state R43). -/
theorem getLsbD_statusWord (st : Status) (b : Nat) : st.toWord.getLsbD b
    = (b == 0 && st.busy || b == 1 && st.done || b == 2 && st.err || b == 3 && st.outcfg
      || decide (8 ≤ b ∧ b ≤ 10) && st.ecode.toBits.getLsbD (b - 8) || b == 11 && decide (st.edev = 1)) := by
  have hedev : (BitVec.ofNat 1 st.edev.val).getLsbD 0 = decide (st.edev = 1) := by
    generalize st.edev = d
    revert d
    decide
  simp only [Status.toWord, BitVec.getLsbD_append, BitVec.getLsbD_ofBool, BitVec.getLsbD_zero]
  match b with
  | 0 | 1 | 2 | 3 | 4 | 5 | 6 | 7 | 8 | 9 | 10 =>
    simp only [Nat.reduceLT, Nat.reduceSub, Nat.reduceLeDiff, Nat.reduceBEq, reduceIte, decide_true, decide_false,
      Nat.reduceEqDiff, Bool.true_and, Bool.false_and, Bool.or_false, Bool.false_or, and_true]
  | 11 => exact hedev
  | c + 12 => rfl

/-- Appended fields add up, each at its place. -/
theorem toNat_append_eq_add {m n : Nat} (x : BitVec m) (y : BitVec n) :
    (x ++ y).toNat = x.toNat * 2 ^ n + y.toNat := by
  rw [BitVec.toNat_append, ← Nat.shiftLeft_add_eq_or_of_lt y.isLt, Nat.shiftLeft_eq]

/-- DEVCFG's layout (10_state R45). -/
theorem devcfgWord_toNat (c : Params) : (devcfgWord c).toNat
    = c.ndev + 2 ^ 8 * c.addr0.toNat + 2 ^ 16 * (match c.addr1 with
      | some a => a.toNat
      | none => 0) := by
  have hn : c.ndev < 4 := by unfold Params.ndev; split <;> decide
  unfold devcfgWord
  simp only [toNat_append_eq_add _ _]
  cases c.addr1 <;> simp only [BitVec.toNat_ofNat] <;> omega

/-- A lane of a word made from the four given bytes (20_memory R76). -/
theorem lane_ofLanes_get (f : Fin 4 → Byte) (k : Fin 4) : lane (ofLanes (f 0) (f 1) (f 2) (f 3)) k.val = f k := by
  obtain ⟨h0, h1, h2, h3⟩ := lane_ofLanes (f 0) (f 1) (f 2) (f 3)
  match k with
  | 0 => exact h0
  | 1 => exact h1
  | 2 => exact h2
  | 3 => exact h3

theorem lane_pinstrWord (v : Vector Byte 32) (j : Fin 8) (k : Fin 4) :
    lane (pinstrWord v j) k.val = v[4 * j.val + k.val] :=
  lane_ofLanes_get (fun k => v[4 * j.val + k.val]) k

theorem lane_dumpWord (v : Vector Byte 24) (j : Fin 6) (k : Fin 4) :
    lane (dumpWord v j) k.val = v[4 * j.val + k.val] :=
  lane_ofLanes_get (fun k => v[4 * j.val + k.val]) k

/-- Settles O18: the register map row by row, from the lemma about each row. -/
theorem hostReadsTheRegisterMap : Obligations.HostReadsTheRegisterMap := by
  intro s off ha
  refine ⟨memRead_admitted s ha, ?_, ?_, ?_, ?_, ?_, ?_, readWindow_reserved s, ?_, ?_⟩
  · rintro rfl; exact readWindow_zero s
  · rintro rfl; exact readWindow_delay s
  · rintro rfl b; exact getLsbD_statusWord s.status b
  · rintro rfl; exact readWindow_result s
  · rintro rfl
    have hword := congrArg (BitVec.ofNat 32) (devcfgWord_toNat s.cfg)
    rw [BitVec.ofNat_toNat, BitVec.setWidth_eq] at hword
    exact (readWindow_devcfg s).trans hword
  · rintro rfl; exact readWindow_pinlen s
  · rintro j rfl k
    rw [readWindow_pinstr]
    exact lane_pinstrWord s.pinstr j k
  · rintro j rfl k
    rw [readWindow_dump]
    exact lane_dumpWord s.dump j k

/-! ### Writes of the operand registers -/

theorem writeWindow_delay {s : State} (hb : s.status.busy = false) (w : Word) :
    s.writeWindow 0x04 w = { s with delay := w } := by
  simp [State.writeWindow, hb]

theorem writeWindow_pinlen {s : State} (hb : s.status.busy = false) (w : Word) :
    s.writeWindow 0x14 w = { s with pinlen := w.extractLsb' 0 6 } := by
  simp [State.writeWindow, hb]

theorem writeWindow_pinstr {s : State} (hb : s.status.busy = false) (j : Fin 8) (w : Word) :
    s.writeWindow (0x20 + 4 * j.val) w = { s with pinstr := setPinstrWord s.pinstr j w } := by
  have hj : (⟨(0x20 + 4 * j.val - 0x20) / 4, by omega⟩ : Fin 8) = j := Fin.ext (by dsimp only; omega)
  rw [State.writeWindow, if_neg (by simp [hb]), if_neg (by omega), if_neg (by omega), if_neg (by omega),
    dif_pos (by omega), hj]

/-- PINLEN holds the low 6 bits of what is written (10_state R46). -/
theorem pinlen_readsBack (w : Word) : (w.extractLsb' 0 6).setWidth 32 = w &&& 0x3F#32 := by
  apply BitVec.eq_of_toNat_eq
  have h := Nat.and_two_pow_sub_one_eq_mod w.toNat 6
  simp at h ⊢
  omega

/-- PINSTR after a write of word `j`, byte by byte (10_state R47). -/
theorem getElem_setPinstrWord (v : Vector Byte 32) (j : Fin 8) (w : Word) (n : Nat) (hn : n < 32) :
    (setPinstrWord v j w)[n] = if n / 4 = j.val then lane w (n % 4) else v[n] := by
  simp only [setPinstrWord, Vector.getElem_set]
  split
  · rw [if_pos (by omega), show n % 4 = 3 by omega]
  split
  · rw [if_pos (by omega), show n % 4 = 2 by omega]
  split
  · rw [if_pos (by omega), show n % 4 = 1 by omega]
  split
  · rw [if_pos (by omega), show n % 4 = 0 by omega]
  · rw [if_neg (by omega)]

theorem pinstrWord_setPinstrWord_same (v : Vector Byte 32) (j : Fin 8) (w : Word) :
    pinstrWord (setPinstrWord v j w) j = w := by
  have hdiv : ∀ k, k < 4 → (4 * j.val + k) / 4 = j.val := by omega
  simp [pinstrWord, getElem_setPinstrWord, hdiv]

theorem pinstrWord_setPinstrWord_other (v : Vector Byte 32) {j k : Fin 8} (h : k ≠ j) (w : Word) :
    pinstrWord (setPinstrWord v j w) k = pinstrWord v k := by
  have hkj : k.val ≠ j.val := Fin.val_ne_of_ne h
  have hdiv : ∀ l, l < 4 → (4 * k.val + l) / 4 ≠ j.val := by omega
  simp [pinstrWord, getElem_setPinstrWord, hkj, hdiv]

theorem windowByte_congr {s t : State} {a : Nat} (h : t.readWindow (4 * (a / 4)) = s.readWindow (4 * (a / 4))) :
    t.windowByte a = s.windowByte a :=
  congrArg (lane · (a % 4)) h

/-- What a host write of the register at `off` is to leave: `r` reads back and every other byte, the sequencer and the
trace are as they were. -/
structure State.RegisterWritten (off : Nat) (r : Word) (s t : State) : Prop where
  register : t.readWindow off = r
  others   : ∀ a, a / 4 ≠ off / 4 → t.windowByte a = s.windowByte a
  seq      : t.seq = s.seq
  trace    : t.trace = s.trace

theorem delay_registerWritten (s : State) (w : Word) : s.RegisterWritten 0x04 w { s with delay := w } := by
  refine ⟨rfl, fun a ha => windowByte_congr ?_, rfl, rfl⟩
  exact readWindow_congr (fun _ => rfl) (fun h => absurd h (by omega)) (fun _ => rfl) (fun _ => rfl) (fun _ => rfl)
    (fun _ => rfl) (fun _ => rfl) fun _ => rfl

theorem pinlen_registerWritten (s : State) (w : Word) :
    s.RegisterWritten 0x14 (w &&& 0x3F#32) { s with pinlen := w.extractLsb' 0 6 } := by
  refine ⟨pinlen_readsBack w, fun a ha => windowByte_congr ?_, rfl, rfl⟩
  exact readWindow_congr (fun _ => rfl) (fun _ => rfl) (fun _ => rfl) (fun _ => rfl) (fun _ => rfl)
    (fun h => absurd h (by omega)) (fun _ => rfl) fun _ => rfl

theorem pinstr_registerWritten (s : State) (j : Fin 8) (w : Word) :
    s.RegisterWritten (0x20 + 4 * j.val) w { s with pinstr := setPinstrWord s.pinstr j w } := by
  refine ⟨?_, fun a ha => windowByte_congr ?_, rfl, rfl⟩
  · rw [readWindow_pinstr]
    exact pinstrWord_setPinstrWord_same s.pinstr j w
  · by_cases hp : 8 ≤ a / 4 ∧ a / 4 < 16
    · obtain ⟨k, hk⟩ : ∃ k : Fin 8, 4 * (a / 4) = 0x20 + 4 * k.val := ⟨⟨a / 4 - 8, by omega⟩, by dsimp only; omega⟩
      rw [hk, readWindow_pinstr, readWindow_pinstr]
      exact pinstrWord_setPinstrWord_other s.pinstr (by omega) w
    · exact readWindow_congr (fun _ => rfl) (fun _ => rfl) (fun _ => rfl) (fun _ => rfl) (fun _ => rfl) (fun _ => rfl)
        (fun h => absurd h (by omega)) fun _ => rfl

/-- Settles O19: one lemma a register says what its write leaves. -/
theorem writtenOperandRegistersReadBack : Obligations.WrittenOperandRegistersReadBack := by
  intro s off v hb ha hoff
  obtain ⟨_, halign, _⟩ := admitted_iff.mp ha
  have hb' : (s.log (.hostWrite off v)).status.busy = false := hb
  refine ⟨_, memWrite_admitted s v ha, ?_⟩
  suffices h : State.RegisterWritten off (if off = 0x14 then v &&& 0x3F#32 else v) (s.log (.hostWrite off v))
      ((s.log (.hostWrite off v)).writeWindow off v) from ⟨h.register, h.others, h.seq, h.trace⟩
  obtain rfl | rfl | ⟨hlo, hhi⟩ := hoff
  · rw [writeWindow_delay hb']
    exact delay_registerWritten _ v
  · rw [writeWindow_pinlen hb']
    exact pinlen_registerWritten _ v
  · obtain ⟨j, rfl⟩ : ∃ j : Fin 8, off = 0x20 + 4 * j.val := ⟨⟨(off - 0x20) / 4, by omega⟩, by dsimp only; omega⟩
    rw [writeWindow_pinstr hb', if_neg (by omega)]
    exact pinstr_registerWritten _ j v

/-! ### Reset and PatternState -/

/-- Settles O5: R55's table, register by register. -/
theorem blockResetLeavesTheResetValues : Obligations.BlockResetLeavesTheResetValues := by
  intro s cfg ts hts
  refine ⟨State.blockReset cfg { s with turns := ts }, ?_, rfl, rfl, rfl, rfl, ?_, rfl, rfl, rfl, ?_, ?_, rfl⟩
  · simp only [step, hts, Turn.take]
  · rw [readWindow_status, State.blockReset_status]
    decide
  · exact fun k => Vector.getElem_replicate ..
  · exact fun k => Vector.getElem_replicate ..

/-- Settles O21: no register of the window is made from the sequencer. -/
theorem hostCannotSeePatternState : Obligations.HostCannotSeePatternState := fun _ _ _ _ =>
  readWindow_congr (fun _ => rfl) (fun _ => rfl) (fun _ => rfl) (fun _ => rfl) (fun _ => rfl) (fun _ => rfl)
    (fun _ => rfl) fun _ => rfl

end Sys2Proof.Machine
end

section
/-! Turns and the trace (20_memory R74, R88): the event a turn appends, unadmitted accesses (R70), how
a command starts (R83, 30_encoding R110), and the operands while one runs (R92, 10_state R50). -/

namespace Sys2Proof.Machine

/-! ### Unadmitted accesses -/

theorem memWrite_unadmitted {off width : Nat} (s : State) (v : Word) (h : admitted off width = false) :
    s.memWrite off width v = .refused (.hostAccess off width) := by
  rw [State.memWrite, h, if_neg Bool.false_ne_true]

theorem memRead_unadmitted {off width : Nat} (s : State) (h : admitted off width = false) :
    s.memRead off width = .refused (.hostAccess off width) := by
  rw [State.memRead, h, if_neg Bool.false_ne_true]

/-- Settles O20. -/
theorem unadmittedAccessesAreRefused : Obligations.UnadmittedAccessesAreRefused := by
  intro s off width v h
  have ha : admitted off width = false := by
    rw [← Bool.not_eq_true, admitted_iff]
    omega
  exact ⟨memWrite_unadmitted s v ha, memRead_unadmitted s ha⟩

/-! ### The event of one statement -/

/-- The events a statement can append when it is performed: that of its own call, if it is a call and the call returns
(20_memory R74). The data of a read are as many bytes as it asked for, or none where it failed. -/
inductive Stmt.Logs (run : Run) (s : State) : Stmt → List Event → Prop where
  | nothing (st : Stmt) : Stmt.Logs run s st []
  | write (d : Device) (payload : List ByteExpr) (bytes : List Byte) (r : CallResult)
      (h : evalBytes s.pinstr run.ps payload = .ok bytes) :
      Stmt.Logs run s (.busWrite d payload) [.busWrite d.idx d.addr bytes r]
  | read (d : Device) (n : Nat) (r : CallResult) (data : List Byte) (hok : r = .ok → data.length = n)
      (hfail : r ≠ .ok → data = []) : Stmt.Logs run s (.busRead d n) [.busRead d.idx d.addr n r data]
  | sleep : Stmt.Logs run s .sleep [.sleep s.delay]

theorem effect_logs {st : Stmt} {run : Run} {s t : State} (h : Stmt.Effect run s st t) :
    ∃ es, t.trace = s.trace ++ es ∧ st.Logs run s es := by
  cases h with
  | wrote d payload bytes r data h => exact ⟨_, rfl, .write d payload bytes r h⟩
  | read d n r data hb hr =>
    refine ⟨_, rfl, .read d n r _ ?_ fun hf => if_neg hf⟩
    rintro rfl
    exact replyAt_zero_length hb hr
  | slept => exact ⟨_, rfl, .sleep⟩
  | _ => exact ⟨[], (List.append_nil _).symm, .nothing _⟩

theorem Stmt.Logs.length_le {st : Stmt} {run : Run} {s : State} {es : List Event} (h : st.Logs run s es) :
    es.length ≤ 1 := by
  cases h with
  | nothing => exact Nat.zero_le 1
  | write => exact Nat.le_refl 1
  | read => exact Nat.le_refl 1
  | sleep => exact Nat.le_refl 1

/-! ### The events of a turn -/

/-- The trace goes on by at most one event (20_memory R74). -/
def State.LogsAtMostOne (s t : State) : Prop := ∃ es, t.trace = s.trace ++ es ∧ es.length ≤ 1

theorem State.LogsAtMostOne.of_same {s t : State} (h : t.trace = s.trace) : s.LogsAtMostOne t :=
  ⟨[], by rw [h, List.append_nil], Nat.zero_le 1⟩

theorem State.LogsAtMostOne.of_event {s t : State} {e : Event} (h : t.trace = s.trace ++ [e]) : s.LogsAtMostOne t :=
  ⟨[e], h, Nat.le_refl 1⟩

theorem WindowWrite.trace_eq {s t : State} {off : Nat} {w : Word} (h : WindowWrite s off w t) : t.trace = s.trace := by
  cases h with
  | cmd => obtain ⟨_, _, h⟩ | ⟨_, _, h⟩ := latch_cases s w <;> rw [h]
  | ignored => rfl
  | delay => rfl
  | pinlen => rfl
  | pinstr => rfl

theorem hostTurn_logsAtMostOne {s t : State} (h : s.hostTurn = .next t) : s.LogsAtMostOne t := by
  obtain ⟨_, rfl⟩ | ⟨off, v, rest, _, _, rfl⟩ | ⟨off, rest, _, _, rfl⟩ | ⟨rest, host', _, rfl⟩ := hostTurn_next h
  · exact .of_same rfl
  · exact .of_event (writeWindow_cases _ off v).trace_eq
  · exact .of_event rfl
  · exact .of_event rfl

theorem sequencerTurn_logsAtMostOne {s t : State} (h : s.sequencerTurn = .next t) : s.LogsAtMostOne t := by
  obtain ⟨_, rfl⟩ | ⟨_, _, _, _, ⟨_, _, he⟩ | ⟨_, rfl⟩⟩ | ⟨_, _, _, _, rfl⟩ := sequencerTurn_next h
  · exact .of_same rfl
  · obtain ⟨es, hes, hl⟩ := effect_logs he
    exact ⟨es, hes, hl.length_le⟩
  · exact .of_same rfl
  · exact .of_same rfl

/-- Settles O10: a host access, a statement and a block reset each append at most the one event of their own. -/
theorem stepAddsAtMostOneEvent : Obligations.StepAddsAtMostOneEvent := by
  intro s t h
  obtain ht | ht | ⟨cfg, ts, _, rfl⟩ := step_next h
  · exact (hostTurn_logsAtMostOne ht :)
  · exact (sequencerTurn_logsAtMostOne ht :)
  · exact (State.LogsAtMostOne.of_same rfl :)

/-! ### The start of a command -/

/-- A write of the window that starts a command is a write to CMD of a legal word (30_encoding R110). -/
theorem WindowWrite.starts {s t : State} {off : Nat} {w : Word} {run : Run} (h : WindowWrite s off w t)
    (hs : s.seq = .idle) (ht : t.seq = .running run) :
    off = 0x00 ∧ s.status.busy = false
      ∧ ∃ i, decodeWord w = .ok i ∧ run = Run.start w ∧ t.cmd = w ∧ t.status.busy = true := by
  cases h with
  | cmd hb hoff =>
    obtain ⟨_, _, e⟩ | ⟨i, hd, e⟩ := latch_cases s w <;> rw [e] at ht ⊢
    · cases ht
    · cases ht
      exact ⟨hoff, hb, i, hd, rfl, rfl, rfl⟩
  | ignored => exact absurd (hs.symm.trans ht) nofun
  | delay => exact absurd (hs.symm.trans ht) nofun
  | pinlen => exact absurd (hs.symm.trans ht) nofun
  | pinstr => exact absurd (hs.symm.trans ht) nofun

/-- An idle sequencer's turn does nothing (30_encoding R111). -/
theorem sequencerTurn_of_idle {s t : State} (h : s.sequencerTurn = .next t) (hs : s.seq = .idle) : t = s := by
  rw [State.sequencerTurn, hs] at h
  cases h
  rfl

/-- Settles O11: of the turns only the host's takes an idle sequencer to a running one, and of its accesses only a write
that latches. -/
theorem onlyACmdWriteStartsACommand : Obligations.OnlyACmdWriteStartsACommand := by
  intro s t run hs h hrun
  obtain ht | ht | ⟨cfg, ts, _, rfl⟩ := step_next h
  · obtain ⟨_, rfl⟩ | ⟨off, v, rest, _, _, rfl⟩ | ⟨off, rest, _, _, rfl⟩ | ⟨rest, host', _, rfl⟩ := hostTurn_next ht
    · exact absurd (hs.symm.trans hrun) nofun
    · have hw := writeWindow_cases (State.log (.hostWrite off v) { s with turns := s.turns.tail, host := rest }) off v
      obtain ⟨rfl, hb, i, hd, hstart, hcmd, hbusy⟩ := hw.starts hs hrun
      exact ⟨v, i, hw.trace_eq, hd, hstart, hcmd, hb, hbusy⟩
    · exact absurd (hs.symm.trans hrun) nofun
    · exact absurd (hs.symm.trans hrun) nofun
  · cases sequencerTurn_of_idle ht hs
    exact absurd (hs.symm.trans hrun) nofun
  · cases hrun

/-! ### The operands of a running command -/

/-- The registers a command takes its operands from (20_memory R92) are as they were. -/
def State.KeepsOperands (s t : State) : Prop :=
  t.cmd = s.cmd ∧ t.delay = s.delay ∧ t.pinlen = s.pinlen ∧ t.pinstr = s.pinstr

/-- A busy block ignores the host's writes (10_state R50). -/
theorem hostTurn_keepsOperands {s t : State} (h : s.hostTurn = .next t) (hb : s.status.busy = true) :
    s.KeepsOperands t := by
  obtain ⟨_, rfl⟩ | ⟨off, v, rest, _, _, rfl⟩ | ⟨off, rest, _, _, rfl⟩ | ⟨rest, host', _, rfl⟩ := hostTurn_next h
  · exact ⟨rfl, rfl, rfl, rfl⟩
  · have hw := writeWindow_ignored (s := State.log (.hostWrite off v) { s with host := rest }) (off := off) v (.inl hb)
    rw [hw]
    exact ⟨rfl, rfl, rfl, rfl⟩
  · exact ⟨rfl, rfl, rfl, rfl⟩
  · exact ⟨rfl, rfl, rfl, rfl⟩

theorem sequencerTurn_keepsOperands {s t : State} (h : s.sequencerTurn = .next t) : s.KeepsOperands t := by
  obtain ⟨_, rfl⟩ | ⟨_, _, _, _, ⟨_, _, he⟩ | ⟨_, rfl⟩⟩ | ⟨_, _, _, _, rfl⟩ := sequencerTurn_next h
  · exact ⟨rfl, rfl, rfl, rfl⟩
  · exact ⟨(effect_sameOperands he).cmd, (effect_sameOperands he).delay, (effect_sameOperands he).pinlen,
      (effect_sameOperands he).pinstr⟩
  · exact ⟨rfl, rfl, rfl, rfl⟩
  · exact ⟨rfl, rfl, rfl, rfl⟩

/-- Settles O13: BUSY is 1 while a command runs, so the host's writes are ignored, and no statement writes an operand. -/
theorem operandsAreFixedWhileRunning : Obligations.OperandsAreFixedWhileRunning := by
  intro s t run hinv hrun h hr
  obtain ⟨_, hseq⟩ := hinv
  obtain ⟨hbusy, _, _⟩ := (State.seqInv_running hrun).mp hseq
  obtain ht | ht := step_next_of_no_reset h hr
  · exact (hostTurn_keepsOperands ht hbusy :)
  · exact (sequencerTurn_keepsOperands ht :)

end Sys2Proof.Machine
end

section
/-! What the statements of each command's program look like: which payloads and reads stand in it, and which expressions
need PatternState. From that the shapes of the bus transactions (20_memory R72, R77, R81). -/

namespace Sys2Proof.Machine

/-! ### The expressions and payloads of a command -/

/-- The commands of 42_pattern_engine, which hold a PatternState while they run (10_state R33). -/
def isPattern : Instr → Bool
  | .move1 _ | .move1in8 _ | .move1in4 _ | .incr1in8 _ | .decr1in8 _ | .alternate => true
  | .cfgout | .wrport _ _ | .setall _ | .setpins | .dump | .regaddr _ _ _ => false

/-- The command whose frames are pairs of pins (42_pattern_engine R220). -/
def isMove1in4 (i : Instr) : Bool := i matches .move1in4 _

/-- PS.port is read by patterns only. -/
def PortExpr.fits (i : Instr) : PortExpr → Bool
  | .lit _ => true
  | .current => isPattern i

/-- The rest of PatternState is read by patterns only, and by MOVE1IN4 in a pair (42_pattern_engine R200, R220). -/
def ByteExpr.fits (i : Instr) : ByteExpr → Bool
  | .lit _ => true
  | .regAddr p _ _ => p.fits i
  | .pin _ => true
  | .rest _ => isPattern i
  | .walk _ => isPattern i
  | .pair _ => isPattern i && isMove1in4 i
  | .fill _ => isPattern i

/-- The payloads a command writes (20_memory R72, R81): a pointer to a group, one output port, or a burst. -/
inductive Payload (i : Instr) : List ByteExpr → Prop where
  | pointer (f : Family) (h : i = .dump) : Payload i [.regAddr (.lit 0) f .ai]
  | port (p : PortExpr) (b : ByteExpr) (hp : p.fits i = true) (hb : b.fits i = true) :
      Payload i [.regAddr p .output .nonAi, b]
  | pins (h : i = .setpins) : Payload i [.regAddr (.lit 0) .output .ai, .pin 0, .pin 1, .pin 2]
  | config (h : i = .cfgout) : Payload i [.regAddr (.lit 0) .config .ai, .lit 0x00#8, .lit 0x00#8, .lit 0x00#8]

/-- A payload's expressions are the command's. -/
theorem Payload.fits {i : Instr} {payload : List ByteExpr} (h : Payload i payload) : ∀ e ∈ payload, e.fits i = true := by
  cases h with
  | pointer => exact List.forall_mem_singleton.mpr rfl
  | port p b hp hb => exact List.forall_mem_cons.mpr ⟨hp, List.forall_mem_singleton.mpr hb⟩
  | pins => simp [ByteExpr.fits, PortExpr.fits]
  | config => simp [ByteExpr.fits, PortExpr.fits]

/-- Whether a statement may stand in a command's program, by the payload or the expression it names and by the
PatternState it needs. -/
def Stmt.fits (i : Instr) : Stmt → Prop
  | .setResult e => e.fits i = true
  | .busWrite _ payload => Payload i payload
  | .busRead _ n => i = .dump ∧ n = 3
  | .storeDump _ _ => i = .dump
  | .setPort _ => isPattern i = true
  | .setI j => isPattern i = true ∧ (isMove1in4 i = true → j.val < 4)
  | .fillAcc => isPattern i = true
  | .checkPort _ | .checkPinLen | .checkPinChar _ | .setOutcfg | .check _ | .sleep => True

/-! ### The programs -/

section
variable {i : Instr} (c : Params)

theorem writeReg_fits {a : ByteExpr} {data : List ByteExpr} (h : Payload i (a :: data)) :
    ∀ st ∈ writeReg c a data, st.fits i := by
  intro st hst
  simp only [writeReg, List.mem_flatMap, List.mem_cons, List.not_mem_nil, or_false] at hst
  obtain ⟨d, _, rfl | rfl⟩ := hst
  · exact h
  · trivial

theorem setAll_fits {b : ByteExpr} (hb : b.fits i = true) : ∀ st ∈ setAll c b, st.fits i := by
  intro st hst
  simp only [setAll, List.mem_append] at hst
  obtain (h | h) | h := hst <;> exact writeReg_fits c (.port _ b rfl hb) st h

theorem frame_fits {b : ByteExpr} (hb : b.fits i = true) : ∀ st ∈ frame c b, st.fits i :=
  List.forall_mem_append.mpr ⟨setAll_fits c hb, List.forall_mem_singleton.mpr trivial⟩

theorem framed_fits (pol : Polarity) {frames : List Stmt} (hi : isPattern i = true) (h : ∀ st ∈ frames, st.fits i) :
    ∀ st ∈ framed c pol frames, st.fits i :=
  have hrest := setAll_fits c (b := .rest pol) hi
  List.forall_mem_append.mpr ⟨List.forall_mem_append.mpr ⟨hrest, h⟩, hrest⟩

theorem loop_fits {js : List (Fin 8)} {body : Fin 8 → List Stmt} (hi : isPattern i = true)
    (hj : ∀ j ∈ js, isMove1in4 i = true → j.val < 4) (hbody : ∀ j, ∀ st ∈ body j, st.fits i) :
    ∀ st ∈ js.flatMap fun j => Stmt.setI j :: body j, st.fits i := by
  intro st hst
  obtain ⟨j, hmem, h⟩ := List.mem_flatMap.mp hst
  obtain rfl | h := List.mem_cons.mp h
  · exact ⟨hi, hj j hmem⟩
  · exact hbody j st h

theorem move1Port_fits (hi : isPattern i = true) (h4 : isMove1in4 i = false) (p : Fin 3) :
    ∀ st ∈ move1Port c p, st.fits i := by
  have hwrite {b : ByteExpr} (hb : b.fits i = true) : ∀ st ∈ writePort c .current b, st.fits i :=
    writeReg_fits c (.port _ b hi hb)
  have hhandoff : ∀ st ∈ handoffWrite c p, st.fits i := by
    unfold handoffWrite
    split
    · exact hwrite (b := .rest .asMode) hi
    · nofun
  have hframes := loop_fits (js := steps8) (body := fun _ => writePort c .current (.walk .asMode) ++ [.sleep]) hi
    (fun _ _ => by simp [h4]) fun _ =>
      List.forall_mem_append.mpr ⟨hwrite (b := .walk .asMode) hi, (List.forall_mem_singleton (a := Stmt.sleep)).mpr trivial⟩
  exact List.forall_mem_append.mpr ⟨List.forall_mem_cons.mpr ⟨hi, hframes⟩, hhandoff⟩

theorem steps4_lt : ∀ j ∈ steps4, j.val < 4 := by decide

theorem fillProgram_fits (pol : Polarity) (hi : isPattern i = true) (h4 : isMove1in4 i = false) :
    ∀ st ∈ fillProgram c pol, st.fits i := by
  refine framed_fits c pol hi (loop_fits hi (fun j _ => by simp [h4]) fun j => ?_)
  exact List.forall_mem_cons.mpr ⟨hi, frame_fits c (b := .fill pol) hi⟩

theorem dumpGroup_fits (d : Device) (g : Fin 4) (f : Family) : ∀ st ∈ dumpGroup d g f, st.fits .dump := by
  simp [dumpGroup, readReg, Stmt.fits, Payload.pointer]

end

/-- Every statement of every program is one of its command's. -/
theorem program_fits (c : Params) (i : Instr) : ∀ st ∈ program c i, st.fits i := by
  cases i with
  | cfgout => exact List.forall_mem_append.mpr ⟨writeReg_fits c (.config rfl), List.forall_mem_singleton.mpr trivial⟩
  | wrport p b => exact List.forall_mem_cons.mpr ⟨trivial, writeReg_fits c (.port _ _ rfl rfl)⟩
  | setall l => exact setAll_fits c rfl
  | setpins =>
    exact List.forall_mem_append.mpr ⟨by simp [Stmt.fits], writeReg_fits c (.pins rfl)⟩
  | dump =>
    intro st h
    simp only [program, dumpProgram, List.mem_flatMap] at h
    obtain ⟨d, _, g, _, h⟩ := h
    exact dumpGroup_fits d g.1 g.2 st h
  | regaddr p f m => exact List.forall_mem_cons.mpr ⟨trivial, List.forall_mem_singleton.mpr rfl⟩
  | move1 m =>
    refine framed_fits c _ rfl fun st h => ?_
    obtain ⟨p, _, h⟩ := List.mem_flatMap.mp h
    exact move1Port_fits c rfl rfl p st h
  | move1in8 m => exact framed_fits c _ rfl (loop_fits rfl nofun fun _ => frame_fits c rfl)
  | move1in4 m => exact framed_fits c _ rfl (loop_fits rfl (fun j hj _ => steps4_lt j hj) fun _ => frame_fits c rfl)
  | incr1in8 m => exact fillProgram_fits c _ rfl rfl
  | decr1in8 m => exact fillProgram_fits c _ rfl rfl
  | alternate => exact List.forall_mem_append.mpr ⟨frame_fits c rfl, frame_fits c rfl⟩

theorem fits_of_program {c : Params} {i : Instr} {k : Nat} {st : Stmt} (h : (program c i)[k]? = some st) : st.fits i :=
  program_fits c i st (List.mem_of_getElem? h)

/-! ### The values of a payload -/

section
variable {pinstr : Vector Byte 32} {ps : Option PatternState}

theorem outputRegister_cases : ∀ q : Fin 3,
    outputRegister q = 0x04#8 ∨ outputRegister q = 0x05#8 ∨ outputRegister q = 0x06#8 := by
  decide

/-- RegisterMap's only failure (40_register_map_and_bus R141). -/
theorem regMapValue_invalid {port : Nat} (h : ¬ port < 3) (f : Family) (m : AddrMode) :
    regMapValue port f m = .error (.raise .invalidArgument) := by
  rw [regMapValue, regMap, if_neg h]

/-- A single-port address is that of one of the three output ports (40_register_map_and_bus R140). -/
theorem outputPort_value {p : PortExpr} {x : Byte} (h : (ByteExpr.regAddr p .output .nonAi).eval pinstr ps = .ok x) :
    x = 0x04#8 ∨ x = 0x05#8 ∨ x = 0x06#8 := by
  cases hport : p.eval ps with
  | error e =>
    rw [ByteExpr.eval, hport] at h
    cases h
  | ok port =>
    by_cases hlt : port < 3
    · cases (regAddr_output (q := ⟨port, hlt⟩) hport).symm.trans h
      exact outputRegister_cases ⟨port, hlt⟩
    · rw [ByteExpr.eval, hport] at h
      cases (regMapValue_invalid hlt .output .nonAi).symm.trans h

/-- An auto-increment group address (40_register_map_and_bus R140, R144). -/
theorem groupAddress_value (f : Family) :
    (ByteExpr.regAddr (.lit 0) f .ai).eval pinstr ps = .ok (regBase f .ai) := by
  cases f <;> rfl

/-- The shapes of what a command writes (20_memory R72, R77, R81). -/
theorem Payload.shape {i : Instr} {payload : List ByteExpr} {bytes : List Byte} (h : Payload i payload)
    (hv : evalBytes pinstr ps payload = .ok bytes) :
    (∃ x, bytes = [x] ∧ (x = 0x80#8 ∨ x = 0x84#8 ∨ x = 0x88#8 ∨ x = 0x8C#8) ∧ i = .dump)
    ∨ (∃ x b, bytes = [x, b] ∧ (x = 0x04#8 ∨ x = 0x05#8 ∨ x = 0x06#8))
    ∨ (∃ x b0 b1 b2, bytes = [x, b0, b1, b2] ∧ ((x = 0x84#8 ∧ i = .setpins) ∨ (x = 0x8C#8 ∧ i = .cfgout))) := by
  cases h with
  | pointer f hi =>
    obtain ⟨x, _, hx, hnil, rfl⟩ := evalBytes_cons_ok hv
    cases hnil
    cases (groupAddress_value f).symm.trans hx
    exact .inl ⟨_, rfl, by cases f <;> decide, hi⟩
  | port p b =>
    obtain ⟨x, _, hx, hb, rfl⟩ := evalBytes_cons_ok hv
    obtain ⟨y, _, _, hnil, rfl⟩ := evalBytes_cons_ok hb
    cases hnil
    exact .inr (.inl ⟨x, y, rfl, outputPort_value hx⟩)
  | pins hi =>
    cases hv
    exact .inr (.inr ⟨_, _, _, _, rfl, .inl ⟨rfl, hi⟩⟩)
  | config hi =>
    cases hv
    exact .inr (.inr ⟨_, _, _, _, rfl, .inr ⟨rfl, hi⟩⟩)

end

/-! ### The obligation -/

/-- An event of a command's step is that of a statement of its program. -/
theorem exec_event {i : Instr} {s t : State} {e : Event} (h : exec i s = .next t) (ht : t.trace = s.trace ++ [e]) :
    ∃ run st, Stmt.fits i st ∧ Stmt.Logs run s st [e] := by
  rw [exec_eq_perform] at h
  obtain ⟨run, _, ⟨st, hst, he⟩ | ⟨_, rfl⟩⟩ := perform_next h
  · obtain ⟨es, hes, hl⟩ := effect_logs he
    obtain rfl : es = [e] := List.append_cancel_left (hes.symm.trans ht)
    exact ⟨run, st, fits_of_program hst, hl⟩
  · simp at ht

/-- Settles O57: the event is that of a statement of the command's program, whose payload or length is one of the
command's. -/
theorem busTransactionsHaveTheseShapes : Obligations.BusTransactionsHaveTheseShapes := by
  intro i s t h
  refine ⟨fun d a bytes r ht => ?_, fun d a n r data ht => ?_, fun n ht => ?_⟩
  · obtain ⟨run, st, hfits, hl⟩ := exec_event h ht
    cases hl with
    | write d payload bytes r hv => exact Payload.shape hfits hv
  · obtain ⟨run, st, hfits, hl⟩ := exec_event h ht
    cases hl with
    | read d n r data hok hfail =>
      obtain ⟨hi, rfl⟩ := hfits
      exact ⟨hi, rfl, hok, hfail⟩
  · obtain ⟨run, st, _, hl⟩ := exec_event h ht
    cases hl
    rfl

end Sys2Proof.Machine
end

section
/-! Progress: under the invariant no statement of a command is refused but a read whose listed reply breaks the
transport's contract (20_memory R73, 60_exceptions R262). -/

namespace Sys2Proof.Machine

/-! ### A pattern's word holds a PatternState (30_encoding R110) -/

theorem fieldOpc_and (v w : Word) : fieldOpc (v &&& w) = fieldOpc v &&& fieldOpc w := BitVec.extractLsb'_and

theorem firstRow_some {w : Word} {rs : List Row} {i : Instr} (h : firstRow w rs = some i) :
    ∃ r ∈ rs, r.accepts w = true ∧ r.read w = i := by
  induction rs with
  | nil => cases h
  | cons r rs ih =>
    unfold firstRow at h
    split at h
    · exact ⟨r, List.mem_cons_self, ‹_›, Option.some.inj h⟩
    · obtain ⟨r', hmem, hr'⟩ := ih h
      exact ⟨r', List.mem_cons_of_mem r hmem, hr'⟩

theorem decodeWord_row {w : Word} {i : Instr} (h : decodeWord w = .ok i) :
    ∃ r ∈ rows, r.accepts w = true ∧ r.read w = i := by
  unfold decodeWord at h
  split at h
  · cases h
    exact firstRow_some ‹_›
  · split at h <;> cases h

/-- Every row fixes OPC (30_encoding R103). -/
theorem rows_mask_opc : ∀ r ∈ rows, fieldOpc r.mask = 0xFF#8 := by
  simp only [rows, portRows, patternRows, List.cons_append, List.nil_append, List.forall_mem_cons]
  decide

theorem fieldOpc_of_accepts {r : Row} {w : Word} (hr : r ∈ rows) (h : r.accepts w = true) :
    fieldOpc w = fieldOpc r.pattern := by
  have h : w &&& r.mask = r.pattern := eq_of_beq h
  rw [← h, fieldOpc_and, rows_mask_opc r hr]
  exact (BitVec.and_allOnes (x := fieldOpc w)).symm

/-- The rows of the pattern opcodes 0x10 to 0x15 spell the patterns. -/
theorem rows_isPattern (w : Word) : ∀ r ∈ rows, isPattern (r.read w) = isPatternWord r.pattern := by
  simp only [rows, portRows, patternRows, List.cons_append, List.nil_append, List.forall_mem_cons]
  exact ⟨rfl, rfl, rfl, rfl, rfl, rfl, rfl, rfl, rfl, rfl, rfl, rfl, nofun⟩

theorem isPatternWord_of_decode {w : Word} {i : Instr} (h : decodeWord w = .ok i) : isPatternWord w = isPattern i := by
  obtain ⟨r, hr, ha, rfl⟩ := decodeWord_row h
  rw [rows_isPattern w r hr, isPatternWord, isPatternWord, fieldOpc_of_accepts hr ha]

/-! ### PatternState is there, and in range -/

/-- A pattern holds a PatternState, in MOVE1IN4 with PS.i in 0..3 (10_state R33, 42_pattern_engine R220). -/
def PatternReady (i : Instr) (ps : Option PatternState) : Prop :=
  isPattern i = true → ∃ p, ps = some p ∧ (isMove1in4 i = true → p.i.val < 4)

theorem patternEffect_i_lt {i : Instr} {st : Stmt} {p : PatternState} (hst : st.fits i) (h4 : isMove1in4 i = true)
    (hp : p.i.val < 4) : (st.patternEffect p).i.val < 4 := by
  cases st with
  | setI j => exact hst.2 h4
  | _ => exact hp

theorem patternAfter_i_lt {i : Instr} {l : List Stmt} {p : PatternState} (hl : ∀ st ∈ l, st.fits i)
    (h4 : isMove1in4 i = true) (hp : p.i.val < 4) : (patternAfter p l).i.val < 4 := by
  induction l generalizing p with
  | nil => exact hp
  | cons st l ih =>
    obtain ⟨hst, hl⟩ := List.forall_mem_cons.mp hl
    exact ih hl (patternEffect_i_lt hst h4 hp)

theorem Run.inv.patternReady {c : Params} {run : Run} {i : Instr} (h : run.inv c) (hd : decodeWord run.cmd = .ok i) :
    PatternReady i run.ps := by
  intro hi
  obtain ⟨_, hps, _⟩ := (Run.inv_iff hd).mp h
  have hw : isPatternWord run.cmd = true := (isPatternWord_of_decode hd).trans hi
  rw [initialPattern, if_pos hw] at hps
  exact ⟨_, hps, fun h4 =>
    patternAfter_i_lt (fun st hst => program_fits c i st (List.mem_of_mem_take hst)) h4 (Nat.zero_lt_succ 3)⟩

/-! ### The bytes a store needs -/

/-- Every store of the list takes a byte of a read that was checked: `c` is what is known of the locals before it. -/
def storesKnown : CallKnown → List Stmt → Bool
  | _, [] => true
  | c, st :: l => (match st with
      | .storeDump _ p => c.checked && decide (p < c.bytes)
      | _ => true) && storesKnown (st.callEffect c) l

theorem storesKnown_at {c : CallKnown} {l : List Stmt} {n : Nat} {k : Fin 24} {p : Nat} (h : storesKnown c l = true)
    (hn : l[n]? = some (.storeDump k p)) :
    ((l.take n).foldl Stmt.callEffect c).checked = true ∧ p < ((l.take n).foldl Stmt.callEffect c).bytes := by
  induction l generalizing c n with
  | nil => cases hn
  | cons st l ih =>
    obtain ⟨hst, hl⟩ := Bool.and_eq_true_iff.mp h
    cases n with
    | zero =>
      cases hn
      simpa using hst
    | succ n => exact ih hl hn

theorem dumpProgram_storesKnown (c : Params) : storesKnown ⟨0, true⟩ (dumpProgram c) = true := by
  cases ha : c.addr1 with
  | none => rw [dumpProgram, Params.devices_single ha]; rfl
  | some a => rw [dumpProgram, Params.devices_dual ha]; rfl

/-- Under the invariant a store finds its byte (41_port_controller R180). -/
theorem Run.inv.stored_byte {c : Params} {run : Run} {i : Instr} {k : Fin 24} {p : Nat} (h : run.inv c)
    (hd : decodeWord run.cmd = .ok i) (hst : (program c i)[run.pos]? = some (.storeDump k p)) :
    ∃ b, run.data[p]? = some b := by
  obtain rfl : i = .dump := fits_of_program hst
  obtain ⟨_, _, hok, hbytes⟩ := (Run.inv_iff hd).mp h
  obtain ⟨hchecked, hp⟩ := storesKnown_at (dumpProgram_storesKnown c) hst
  have hp : p < run.data.length := (hbytes (hok hchecked)).symm ▸ hp
  exact ⟨_, List.getElem?_eq_getElem hp⟩

/-! ### Values that are not refused -/

/-- The value is there, or raises (40_register_map_and_bus R141). -/
def NotRefused {α : Type} (v : Except Stop α) : Prop := ∀ r, v ≠ .error (.refuse r)

theorem NotRefused.ok {α : Type} (a : α) : NotRefused (Except.ok a : Except Stop α) := nofun

theorem regMapValue_notRefused (port : Nat) (f : Family) (m : AddrMode) : NotRefused (regMapValue port f m) := by
  intro r h
  unfold regMapValue at h
  split at h <;> cases h

theorem withPattern_notRefused {α : Type} {i : Instr} {ps : Option PatternState} {f : PatternState → Except Stop α}
    (hp : PatternReady i ps) (hi : isPattern i = true)
    (h : ∀ p, (isMove1in4 i = true → p.i.val < 4) → NotRefused (f p)) : NotRefused (withPattern ps f) := by
  obtain ⟨p, rfl, h4⟩ := hp hi
  exact h p h4

section
variable {i : Instr} {ps : Option PatternState} {pinstr : Vector Byte 32}

theorem PortExpr.eval_notRefused {p : PortExpr} (hp : PatternReady i ps) (h : p.fits i = true) :
    NotRefused (p.eval ps) := by
  cases p with
  | lit n => exact .ok n
  | current => exact withPattern_notRefused hp h fun _ _ => .ok _

theorem ByteExpr.eval_notRefused {e : ByteExpr} (hp : PatternReady i ps) (h : e.fits i = true) :
    NotRefused (e.eval pinstr ps) := by
  cases e with
  | lit b => exact .ok b
  | pin g => exact .ok _
  | rest pol => exact withPattern_notRefused hp h fun _ _ => .ok _
  | walk pol => exact withPattern_notRefused hp h fun _ _ => .ok _
  | fill pol => exact withPattern_notRefused hp h fun _ _ => .ok _
  | regAddr p f m =>
    intro r hr
    simp only [ByteExpr.eval] at hr
    split at hr
    · exact regMapValue_notRefused _ _ _ r hr
    · rename_i x hx
      cases hr
      exact PortExpr.eval_notRefused hp h r hx
  | pair pol =>
    obtain ⟨hi, h4⟩ := Bool.and_eq_true_iff.mp h
    refine withPattern_notRefused hp hi fun p hlt => ?_
    rw [pairShift, if_pos (hlt h4)]
    exact .ok _

theorem evalBytes_notRefused {es : List ByteExpr} (hp : PatternReady i ps) (h : ∀ e ∈ es, e.fits i = true) :
    NotRefused (evalBytes pinstr ps es) := by
  induction es with
  | nil => exact .ok []
  | cons e es ih =>
    obtain ⟨he, hes⟩ := List.forall_mem_cons.mp h
    intro r hr
    unfold evalBytes at hr
    split at hr
    · rename_i x hx
      cases hr
      exact ByteExpr.eval_notRefused hp he r hx
    · split at hr
      · rename_i x hx
        cases hr
        exact ih hes r hx
      · cases hr

end

/-! ### One statement, one turn, one step -/

/-- An outcome that is a next state, or refuses an unadmitted access (20_memory R70), or refuses the
listed reply to a read that has the wrong length (20_memory R73). -/
inductive AdmittedOutcome (replies : List Reply) : Host.Outcome State Fault Refusal → Prop where
  | next (t : State) : AdmittedOutcome replies (.next t)
  | hostAccess (off width : Nat) (h : admitted off width = false) :
      AdmittedOutcome replies (.refused (.hostAccess off width))
  | readLength (n got : Nat) (data : List Byte) (rest : List Reply) (hr : replies = .returns .ok data :: rest)
      (hn : data.length ≠ n) : AdmittedOutcome replies (.refused (.readLength n got))

section
variable {s : State} {run : Run}

theorem withValue_admitted {α : Type} {v : Except Stop α} (go : α → State) (h : NotRefused v) :
    AdmittedOutcome s.replies (withValue v s go) := by
  unfold withValue
  split
  · exact .next _
  · exact .next _
  · exact absurd rfl (h _)

theorem updatePattern_admitted {i : Instr} (f : PatternState → PatternState) (hp : PatternReady i run.ps)
    (hi : isPattern i = true) : AdmittedOutcome s.replies (s.updatePattern f run) := by
  obtain ⟨p, hps, _⟩ := hp hi
  rw [State.updatePattern, hps]
  exact .next _

theorem brokenRead_some {n got : Nat} (h : s.brokenRead n = some got) :
    ∃ data rest, s.replies = .returns .ok data :: rest ∧ data.length ≠ n := by
  unfold State.brokenRead at h
  split at h
  · split at h
    · cases h
    · exact ⟨_, _, ‹_›, ‹_›⟩
  · cases h

theorem perform_admitted {i : Instr} {st : Stmt} (hst : st.fits i) (hp : PatternReady i run.ps)
    (hstore : ∀ k p, st = .storeDump k p → ∃ b, run.data[p]? = some b) :
    AdmittedOutcome s.replies (st.perform run s) := by
  cases st with
  | checkPort p => exact .next _
  | checkPinLen => exact .next _
  | checkPinChar k => exact .next _
  | setOutcfg => exact .next _
  | sleep => exact .next _
  | setResult e => exact withValue_admitted _ (ByteExpr.eval_notRefused hp hst)
  | busWrite d payload => exact withValue_admitted _ (evalBytes_notRefused hp (Payload.fits hst))
  | busRead d n =>
    simp only [Stmt.perform]
    split
    · obtain ⟨data, rest, hr, hn⟩ := brokenRead_some ‹_›
      exact .readLength _ _ data rest hr hn
    · exact .next _
  | check d => simp only [Stmt.perform]; split <;> exact .next _
  | storeDump k p =>
    obtain ⟨b, hb⟩ := hstore k p rfl
    simp only [Stmt.perform, hb]
    exact .next _
  | setPort q => exact updatePattern_admitted _ hp hst
  | setI j => exact updatePattern_admitted _ hp hst.1
  | fillAcc => exact updatePattern_admitted _ hp hst

/-- The sequencer's turn refuses a broken read only. -/
theorem sequencerTurn_admitted (h : s.inv) : AdmittedOutcome s.replies s.sequencerTurn := by
  cases hs : s.seq with
  | idle => rw [State.sequencerTurn, hs]; exact .next s
  | running run =>
    obtain ⟨_, hseq⟩ := h
    obtain ⟨_, _, hrun⟩ := (State.seqInv_running hs).mp hseq
    obtain ⟨i, hd, _⟩ := id hrun
    simp only [State.sequencerTurn, hs, hd]
    rw [exec_eq_perform]
    cases hst : (program s.cfg i)[run.pos]? with
    | none => rw [perform_end hs (List.getElem?_eq_none_iff.mp hst)]; exact .next _
    | some st =>
      rw [perform_at hs hst]
      refine perform_admitted (fits_of_program hst) (hrun.patternReady hd) ?_
      rintro k p rfl
      exact hrun.stored_byte hd hst

end

theorem memWrite_outcome (s : State) (off width : Nat) (v : Word) (rs : List Reply) :
    AdmittedOutcome rs (s.memWrite off width v) := by
  cases h : admitted off width with
  | true => rw [memWrite_admitted s v h]; exact .next _
  | false => rw [memWrite_unadmitted s v h]; exact .hostAccess off width h

theorem memRead_outcome (s : State) (off width : Nat) (rs : List Reply) :
    AdmittedOutcome rs (s.memRead off width) := by
  cases h : admitted off width with
  | true => rw [memRead_admitted s h]; exact .next _
  | false => rw [memRead_unadmitted s h]; exact .hostAccess off width h

/-- The host's turn refuses an unadmitted access only. -/
theorem hostTurn_admitted (s : State) : AdmittedOutcome s.replies s.hostTurn := by
  unfold State.hostTurn
  split
  · exact .next s
  · exact memWrite_outcome _ _ _ _ _
  · exact memRead_outcome _ _ _ _
  · exact memRead_outcome _ _ _ _

theorem step_admitted {s : State} (h : s.inv) : AdmittedOutcome s.replies (step s) := by
  unfold step
  split
  · unfold State.defaultTurn
    split
    · exact hostTurn_admitted s
    · exact sequencerTurn_admitted h
  · rename_i u ts _
    have h' : State.inv { s with turns := ts } := State.inv_congr rfl rfl rfl rfl h
    cases u with
    | host => exact hostTurn_admitted { s with turns := ts }
    | sequencer => exact sequencerTurn_admitted h'
    | reset cfg => exact .next _

/-- Settles O8: the invariant gives every statement the PatternState and the bytes it needs, so that only a host access
and a broken read are refused. -/
theorem stepRefusesNoCommand : Obligations.StepRefusesNoCommand := by
  intro s hinv
  have h := step_admitted hinv
  generalize step s = o at h ⊢
  cases h with
  | next t => exact .inl ⟨t, rfl⟩
  | hostAccess off width h => exact .inr (.inl ⟨off, width, rfl, h⟩)
  | readLength n got data rest hr hn => exact .inr (.inr ⟨n, got, rfl, data, rest, hr, hn⟩)

end Sys2Proof.Machine
end

section
/-! The calls of every command (Safety.lean, `State.calls`) are those its program makes: `compiles_program` gives, for a
command with valid arguments, the `Compiles` of Laws/Run.lean (41_port_controller, 42_pattern_engine). -/

namespace Sys2Proof.Machine

/-! ### PatternState at the start -/

/-- PatternState as the latch of a pattern leaves it (30_encoding R110). -/
def PatternState.start (m : Mode) : PatternState := { acc := 0x00#8, mode := m, port := 0, i := 0 }

@[simp] theorem PatternState.start_mode (m : Mode) : (PatternState.start m).mode = m := rfl

theorem initialPattern_modeWord {opc : Byte} (m : Bool) (h : 0x10 ≤ opc.toNat ∧ opc.toNat ≤ 0x15) :
    initialPattern (modeWord opc m) = some (.start (Mode.ofBit m)) := by
  simp [initialPattern, isPatternWord, modeWord, h, PatternState.start]

/-! ### Argument checks and bursts -/

/-- An accepted character is '0' or '1' by its bit (41_port_controller R176, R177). -/
theorem pinTerm_eq {pinstr : Vector Byte 32} {g : Fin 3} {j : Fin 8}
    (h : isPinChar (pinstr[8 * g.val + j.val]'(by omega)) = true) :
    pinTerm pinstr g j = (pinBit pinstr g j).setWidth 8 <<< (7 - j.val) := by
  have hchar {b : Byte} (hb : isPinChar b = true) : b - 0x30#8 = (BitVec.ofBool (b == 0x31#8)).setWidth 8 := by
    obtain rfl | rfl : b = 0x30#8 ∨ b = 0x31#8 := by simpa [isPinChar] using hb
    · rfl
    · rfl
  rw [pinTerm, pinBit, hchar h]

/-- Eight bits, most significant first, are the sum of their shifts (20_memory R78). -/
theorem bits_eq_sum : ∀ b0 b1 b2 b3 b4 b5 b6 b7 : BitVec 1,
    b0.setWidth 8 <<< 7 + b1.setWidth 8 <<< 6 + b2.setWidth 8 <<< 5 + b3.setWidth 8 <<< 4 + b4.setWidth 8 <<< 3
      + b5.setWidth 8 <<< 2 + b6.setWidth 8 <<< 1 + b7.setWidth 8 <<< 0
      = b0 ++ b1 ++ b2 ++ b3 ++ b4 ++ b5 ++ b6 ++ b7 := by
  decide

/-- R177's sum is the byte of 20_memory R78. -/
theorem pinByte_eq_pinGroup {pinstr : Vector Byte 32} {g : Fin 3}
    (h : ∀ j : Fin 8, isPinChar (pinstr[8 * g.val + j.val]'(by omega)) = true) :
    pinByte pinstr g = pinGroup pinstr g := by
  simp only [pinByte, pinGroup, pinTerm_eq (h _)]
  exact bits_eq_sum ..

/-- The characters SETPINS checks are those of a valid pin string (41_port_controller R176). -/
theorem pinsValid_iff (s : State) :
    s.pinsValid = true ↔ s.pinlen = 24#6 ∧ ∀ k ∈ pinIndexes, isPinChar s.pinstr[k] = true := by
  have hidx (q : Fin 32 → Bool) : (∀ k ∈ pinIndexes, q k = true) ↔ ∀ k : Fin 24, q (k.castLE (by decide)) = true := by
    have h : pinIndexes = (List.finRange 24).map (Fin.castLE (by decide)) := by decide
    simp [h]
  rw [hidx fun k => isPinChar s.pinstr[k]]
  simp [State.pinsValid, isPinChar]

section
variable {pinlen : BitVec 6} {pinstr : Vector Byte 32} {fin : State → State} {ps : Option PatternState}
  {l : List Stmt} {cs : List Call}

/-- Statements that nothing follows. -/
theorem Compiles.alone (h : Compiles pinlen pinstr fin ps (l ++ []) (cs ++ [])) :
    Compiles pinlen pinstr fin ps l cs := by
  rwa [List.append_nil, List.append_nil] at h

theorem compiles_pinChars {ks : List (Fin 32)} (h : ∀ k ∈ ks, isPinChar pinstr[k] = true)
    (hl : Compiles pinlen pinstr fin ps l cs) : Compiles pinlen pinstr fin ps (ks.map .checkPinChar ++ l) cs := by
  induction ks with
  | nil => exact hl
  | cons k ks ih =>
    obtain ⟨hk, hks⟩ := List.forall_mem_cons.mp h
    exact .char k hk (ih hks)

/-- SETPINS's burst (41_port_controller R176, R177). -/
theorem evalBytes_pins (h : ∀ k ∈ pinIndexes, isPinChar pinstr[k] = true) :
    evalBytes pinstr ps [.regAddr (.lit 0) .output .ai, .pin 0, .pin 1, .pin 2]
      = .ok [0x84#8, pinGroup pinstr 0, pinGroup pinstr 1, pinGroup pinstr 2] := by
  have hg (g : Fin 3) : pinByte pinstr g = pinGroup pinstr g := by
    refine pinByte_eq_pinGroup fun j => h ⟨8 * g.val + j.val, by omega⟩ ?_
    revert g j
    decide
  rw [← hg 0, ← hg 1, ← hg 2]
  rfl

/-! ### DUMP (41_port_controller R180) -/

theorem compiles_dumpGroup (d : Device) (g : Fin 4) (f : Family) (base : Fin 22)
    (hb : base.val = 12 * d.idx.val + 3 * g.val) (hl : Compiles pinlen pinstr fin ps l cs) :
    Compiles pinlen pinstr fin ps (dumpGroup d g f ++ l) (.write d [regBase f .ai] :: .read d base :: cs) := by
  refine .write d _ _ (evalBytes_cons (groupAddress_value f) rfl) (.read d base _ _ _ ?_ ?_ ?_ hl)
  · exact hb.symm
  · rw [hb]; rfl
  · rw [hb]; rfl

theorem compiles_dump (c : Params) : Compiles pinlen pinstr (fun s => s) ps (dumpProgram c) (dumpCalls c) := by
  unfold dumpProgram dumpCalls
  induction c.devices with
  | nil => exact .nil ps
  | cons d ds ih =>
    exact compiles_dumpGroup d 0 .input _ rfl (compiles_dumpGroup d 1 .output _ rfl
      (compiles_dumpGroup d 2 .polarity _ rfl (compiles_dumpGroup d 3 .config _ rfl ih)))

/-! ### The loops of the patterns (42_pattern_engine R210 to R230) -/

/-- The PatternStates of a loop over PS.i, one a turn, where a turn takes PatternState on by `next`. -/
def loopStates (next : PatternState → Fin 8 → PatternState) : PatternState → List (Fin 8) → List PatternState
  | _, [] => []
  | p, j :: js => next p j :: loopStates next (next p j) js

/-- A loop makes the calls of its turns. -/
theorem compiles_loop {next : PatternState → Fin 8 → PatternState} {body : Fin 8 → List Stmt}
    {calls : PatternState → List Call} {js : List (Fin 8)} {p : PatternState}
    (hbody : ∀ p, ∀ j ∈ js, ∀ {l cs}, Compiles pinlen pinstr fin (some (next p j)) l cs →
      Compiles pinlen pinstr fin (some p) (body j ++ l) (calls (next p j) ++ cs))
    (hl : Compiles pinlen pinstr fin (some (js.foldl next p)) l cs) :
    Compiles pinlen pinstr fin (some p) (js.flatMap body ++ l) ((loopStates next p js).flatMap calls ++ cs) := by
  induction js generalizing p with
  | nil => exact hl
  | cons j js ih =>
    simp only [List.flatMap_cons, List.append_assoc, loopStates]
    exact hbody p j List.mem_cons_self (ih (fun p k hk => hbody p k (List.mem_cons_of_mem j hk)) hl)

/-- The head of a loop over PS.i (42_pattern_engine R210). -/
def PatternState.stepped (p : PatternState) (j : Fin 8) : PatternState := { p with i := j }

theorem loopStates_stepped (p : PatternState) (js : List (Fin 8)) :
    loopStates PatternState.stepped p js = js.map p.stepped := by
  induction js generalizing p with
  | nil => rfl
  | cons j js ih => exact congrArg (p.stepped j :: ·) (ih (p.stepped j))

/-- The head of a fill's loop with its OR into PS.acc (42_pattern_engine R225). -/
def PatternState.steppedAndFilled (p : PatternState) (j : Fin 8) : PatternState := (p.stepped j).filled

/-- A loop of frames between resting levels makes `framedCalls`, one frame a turn (42_pattern_engine R202, R203). -/
theorem compiles_framedLoop (c : Params) (pol : Polarity) {e : ByteExpr} {head : Fin 8 → List Stmt}
    {next : PatternState → Fin 8 → PatternState} {value : PatternState → Byte} {js : List (Fin 8)} {p : PatternState}
    {rest : Byte} {bytes : List Byte} (hmode : (js.foldl next p).mode = p.mode)
    (hrest : transform (pol.apply p.mode) 0x00#8 = rest) (hbytes : (loopStates next p js).map value = bytes)
    (hvalue : ∀ p, ∀ j ∈ js, e.eval pinstr (some (next p j)) = .ok (value (next p j)))
    (hhead : ∀ p j {l cs}, Compiles pinlen pinstr (fun s => s) (some (next p j)) l cs →
      Compiles pinlen pinstr (fun s => s) (some p) (head j ++ l) cs) :
    Compiles pinlen pinstr (fun s => s) (some p) (framed c pol (js.flatMap fun j => head j ++ frame c e))
      (framedCalls c rest bytes) := by
  subst hrest hbytes
  rw [framedCalls, frameCalls, List.flatMap_map]
  refine compiles_framed c pol hmode fun hl => compiles_loop (fun p j hj l cs hl => ?_) hl
  rw [List.append_assoc, List.append_assoc]
  exact hhead p j (compiles_frame c (hvalue p j hj) hl)

/-- INCR1IN8's and DECR1IN8's program (42_pattern_engine R225, R230). -/
theorem compiles_fillProgram (c : Params) (pol : Polarity) (m : Mode) :
    Compiles pinlen pinstr (fun s => s) (some (.start m)) (fillProgram c pol)
      (framedCalls c (restByte (pol.apply m)) (fillBytes (pol.apply m))) := by
  refine compiles_framedLoop c pol (head := fun j => [.setI j, .fillAcc]) (next := PatternState.steppedAndFilled)
    (value := fun p => transform (pol.apply p.mode) p.acc) rfl ?_ ?_ (fun _ _ _ => rfl) fun _ j => (.setI j <| .fillAcc ·)
  · cases pol <;> cases m <;> rfl
  · cases pol <;> cases m <;> rfl

/-! ### MOVE1 (42_pattern_engine R210) -/

theorem compiles_handoffWrite (c : Params) (p : PatternState)
    (hl : Compiles pinlen pinstr fin (some p) l cs) :
    Compiles pinlen pinstr fin (some p) (handoffWrite c p.port ++ l)
      ((if p.port.val < 2 then handoffCalls c p.mode p.port else []) ++ cs) := by
  have hrest : (ByteExpr.rest .asMode).eval pinstr (some p) = .ok (restByte p.mode) := by
    obtain ⟨acc, m, port, i⟩ := p
    cases m <;> rfl
  unfold handoffWrite handoffCalls
  by_cases hp : p.port.val < 2
  · cases hh : c.handoff with
    | restore =>
      rw [if_pos ⟨hp, rfl⟩, if_pos hp]
      exact compiles_writePort c rfl hrest hl
    | none =>
      rw [if_neg nofun, if_pos hp]
      exact hl
  · rw [if_neg (hp ·.1), if_neg hp]
    exact hl

/-- The frames of R210 and R215 (42_pattern_engine R200, R201). -/
theorem walkBytes_eq (m : Mode) : walkBytes m = steps8.map fun j => transform m (0x01#8 <<< j.val) := by
  cases m <;> rfl

/-- The frames of R220 (42_pattern_engine R200, R201). -/
theorem pairBytes_eq (m : Mode) : pairBytes m = steps4.map fun j => transform m (0x11#8 <<< j.val) := by
  cases m <;> rfl

theorem restByte_eq (m : Mode) : transform m 0x00#8 = restByte m := by cases m <;> rfl

theorem compiles_move1Port (c : Params) (p : PatternState) (q : Fin 3)
    (hl : Compiles pinlen pinstr fin (some { p with port := q, i := 7 }) l cs) :
    Compiles pinlen pinstr fin (some p) (move1Port c q ++ l)
      (move1PortCalls c p.mode q ++ ((if q.val < 2 then handoffCalls c p.mode q else []) ++ cs)) := by
  have hloop := compiles_loop (p := { p with port := q }) (next := PatternState.stepped) (js := steps8)
    (body := fun j => .setI j :: writePort c .current (.walk .asMode) ++ [.sleep])
    (calls := fun r => portCalls c r.port (transform r.mode (0x01#8 <<< r.i.val)) ++ [.sleep])
    (fun r j _ l cs hl => by
      simp only [List.cons_append, List.append_assoc]
      exact .setI j (compiles_writePort c rfl rfl (.sleep hl)))
    (compiles_handoffWrite c { p with port := q, i := 7 } hl)
  rw [loopStates_stepped, List.flatMap_map] at hloop
  rw [move1PortCalls, walkBytes_eq, List.flatMap_map]
  simp only [move1Port, List.cons_append, List.append_assoc] at hloop ⊢
  exact .setPort q hloop

theorem compiles_move1 (c : Params) (m : Mode) :
    Compiles pinlen pinstr (fun s => s) (some (.start m)) (move1Program c)
      (move1Calls c m) := by
  have h := compiles_framed (pinlen := pinlen) (pinstr := pinstr) c .asMode
    (p := .start m) (p' := { acc := 0x00#8, mode := m, port := 2, i := 7 })
    (frames := ports.flatMap (move1Port c))
    (cs := move1PortCalls c m 0 ++ (handoffCalls c m 0 ++ (move1PortCalls c m 1 ++ (handoffCalls c m 1
      ++ move1PortCalls c m 2)))) rfl fun hl => by
        simp only [ports, List.flatMap_cons, List.flatMap_nil, List.append_assoc, List.nil_append]
        exact compiles_move1Port c _ 0 (compiles_move1Port c _ 1 (compiles_move1Port c _ 2 hl))
  simpa only [move1Calls, move1Program, Polarity.apply, PatternState.start_mode, restByte_eq, List.append_assoc] using h

end

/-! ### Every command -/

/-- RegisterMap's address is R108's bits (30_encoding R108, 40_register_map_and_bus R140). -/
theorem regMapValue_eq_addressBits {port : Nat} (h : port < 3) (f : Family) (m : AddrMode) :
    regMapValue port f m = .ok (addressBits port f m) := by
  rw [regMapValue, regMap, if_pos h]
  match port, h with
  | 0, _ => cases f <;> cases m <;> rfl
  | 1, _ => cases f <;> cases m <;> rfl
  | 2, _ => cases f <;> cases m <;> rfl

theorem validPort_isSome {port : Nat} : (validPort port).isSome = true ↔ port < 3 := by
  unfold validPort
  split <;> simp [*]

/-- THE PROGRAM OF A COMMAND WITH VALID ARGUMENTS makes the calls its rule gives, from the PatternState of its latch. -/
theorem compiles_program {i : Instr} {s : State} (h : s.argumentsValid i = true) :
    Compiles s.pinlen s.pinstr (finishOf i) (initialPattern (encode i)) (program s.cfg i) (s.calls i) := by
  cases i with
  | cfgout =>
    have := compiles_writeReg s.cfg (addr := .regAddr (.lit 0) .config .ai)
      (data := [.lit 0x00#8, .lit 0x00#8, .lit 0x00#8]) rfl (.outcfg (pinlen := s.pinlen) (pinstr := s.pinstr) none)
    rwa [List.append_nil] at this
  | wrport p b =>
    have hp : p < 3 := validPort_isSome.mp h
    rw [State.calls, validPort, dif_pos hp]
    exact .port p hp (compiles_writePort s.cfg rfl rfl (.nil _)).alone
  | setall v => cases v <;> exact (compiles_setAll s.cfg rfl (.nil _)).alone
  | setpins =>
    have hv : s.pinsValid = true := h
    obtain ⟨hlen, hchars⟩ := (pinsValid_iff s).mp hv
    rw [State.calls, if_pos hv]
    exact .len hlen (compiles_pinChars hchars (compiles_writeReg s.cfg (evalBytes_pins hchars) (.nil _)).alone)
  | dump => exact compiles_dump s.cfg
  | regaddr p f m =>
    have hp : p < 3 := validPort_isSome.mp h
    exact .port p hp (.result _ _ _ (regMapValue_eq_addressBits hp f m))
  | move1 m =>
    rw [encode, initialPattern_modeWord _ (by decide), Mode.ofBit_toBit]
    exact compiles_move1 s.cfg m
  | move1in8 m =>
    rw [encode, initialPattern_modeWord _ (by decide), Mode.ofBit_toBit]
    refine compiles_framedLoop s.cfg .asMode (head := fun j => [.setI j]) (next := PatternState.stepped)
      (value := fun p => transform p.mode (0x01#8 <<< p.i.val)) rfl (restByte_eq m) ?_ (fun _ _ _ => rfl)
      fun _ j => (.setI j ·)
    rw [loopStates_stepped, List.map_map, walkBytes_eq]
    rfl
  | move1in4 m =>
    rw [encode, initialPattern_modeWord _ (by decide), Mode.ofBit_toBit]
    refine compiles_framedLoop s.cfg .asMode (head := fun j => [.setI j]) (next := PatternState.stepped)
      (value := fun p => transform p.mode (0x11#8 <<< p.i.val)) rfl (restByte_eq m) ?_ (fun p j hj => ?_)
      fun _ j => (.setI j ·)
    · rw [loopStates_stepped, List.map_map, pairBytes_eq]
      rfl
    · have h4 : (p.stepped j).i.val < 4 := steps4_lt j hj
      rw [ByteExpr.eval, withPattern, pairShift, if_pos h4]
      rfl
  | incr1in8 m =>
    rw [encode, initialPattern_modeWord _ (by decide), Mode.ofBit_toBit]
    exact compiles_fillProgram s.cfg .asMode m
  | decr1in8 m =>
    rw [encode, initialPattern_modeWord _ (by decide), Mode.ofBit_toBit]
    cases m <;> exact compiles_fillProgram s.cfg .flipped _
  | alternate =>
    have := compiles_frame s.cfg (e := .lit 0xAA#8) rfl (compiles_frame s.cfg (e := .lit 0x55#8) rfl
      (.nil (pinlen := s.pinlen) (pinstr := s.pinstr) (initialPattern (encode .alternate))))
    simp only [program, alternateProgram, State.calls, frameCalls, List.flatMap_cons, List.flatMap_nil,
      List.append_assoc, List.append_nil, List.singleton_append] at this ⊢
    exact this

end Sys2Proof.Machine
end

section
/-! The calls made so far in a run. `spelledCalls` lists the calls the statements still to perform spell; a run makes the
first ones of them, whatever the transport answers (20_memory R83, R86, 60_exceptions R262, R266), and from a command's
start they are the calls of its rule. -/

namespace Sys2Proof.Machine

/-! ### The calls a list of statements spells -/

/-- A call as `Event.call` and `Call.shown` show it. -/
abbrev ShownCall := Fin 2 × BitVec 7 × List Byte ⊕ Fin 2 × BitVec 7 × Nat ⊕ Word

section
variable (pinlen : BitVec 6) (pinstr : Vector Byte 32) (delay : Word)

/-- The call a statement makes where it is performed; none where it is no call, or its payload has no value. -/
def Stmt.shownCall (ps : Option PatternState) : Stmt → Option ShownCall
  | .busWrite d payload => (evalBytes pinstr ps payload).toOption.map fun bytes => .inl (d.idx, d.addr, bytes)
  | .busRead d n => some (.inr (.inl (d.idx, d.addr, n)))
  | .sleep => some (.inr (.inr delay))
  | _ => none

/-- Whether a statement's argument check, if it is one, lets the command go on (30_encoding R111). -/
def Stmt.argumentOk : Stmt → Bool
  | .checkPort p => decide (p < 3)
  | .checkPinLen => pinlen == 24#6
  | .checkPinChar k => isPinChar pinstr[k]
  | _ => true

/-- The calls of a list of statements performed from PatternState `ps` on, up to the first failing argument check. -/
def spelledCalls : Option PatternState → List Stmt → List ShownCall
  | _, [] => []
  | ps, st :: l =>
    if st.argumentOk pinlen pinstr then
      (st.shownCall pinstr delay ps).toList ++ spelledCalls (ps.map (Stmt.patternEffect · st)) l
    else []

variable {pinlen pinstr delay} {ps : Option PatternState} (st : Stmt) (l : List Stmt)

theorem spelledCalls_cons (hok : st.argumentOk pinlen pinstr = true) (hps : ∀ p, st.patternEffect p = p) :
    spelledCalls pinlen pinstr delay ps (st :: l)
      = (st.shownCall pinstr delay ps).toList ++ spelledCalls pinlen pinstr delay ps l := by
  simp [spelledCalls, hok, hps]

theorem spelledCalls_cons_failing (hok : st.argumentOk pinlen pinstr = false) :
    spelledCalls pinlen pinstr delay ps (st :: l) = [] := by
  simp [spelledCalls, hok]

end

/-! ### The calls made in a run -/

/-- From `s` to `t` the block made the first ones of the given calls. -/
def State.MadeFirst (calls : List ShownCall) (s t : State) : Prop :=
  ∃ es, t.trace = s.trace ++ es ∧ es.map Event.call <+: calls.map some

theorem State.MadeFirst.of_same {calls : List ShownCall} {s t : State} (h : t.trace = s.trace) : s.MadeFirst calls t :=
  ⟨[], by rw [h, List.append_nil], List.nil_prefix⟩

/-- What a statement does to a run's calls: it waits, it ends the command without a call, or it makes its own call and
goes on. -/
theorem effect_calls {st : Stmt} {run : Run} {s t : State} (h : Stmt.Effect run s st t) :
    t = s ∨ (t.seq = .idle ∧ t.trace = s.trace)
    ∨ (st.argumentOk s.pinlen s.pinstr = true ∧ ∃ run' es, t.seq = .running run' ∧ st.Advances run run'
      ∧ t.trace = s.trace ++ es ∧ es.map Event.call = (st.shownCall s.pinstr s.delay run.ps).toList.map some) := by
  cases effect_goes h with
  | waits ht => exact .inl ht
  | raises code dev _ ht => exact .inr (.inl (ht ▸ ⟨rfl, rfl⟩))
  | advances run' hr hseq _ =>
    cases h with
    | waits => exact .inl rfl
    | passes _ h =>
      refine .inr (.inr ⟨?_, run', [], hseq, hr, (List.append_nil _).symm, ?_⟩)
      · obtain ⟨p, rfl, hp⟩ | ⟨rfl, hp⟩ | ⟨k, rfl, hk⟩ | ⟨d, rfl, _⟩ := h
        · exact decide_eq_true hp
        · exact beq_iff_eq.mpr hp
        · exact hk
        · rfl
      · obtain ⟨p, rfl, _⟩ | ⟨rfl, _⟩ | ⟨k, rfl, _⟩ | ⟨d, rfl, _⟩ := h <;> rfl
    | pattern _ f p _ h =>
      obtain ⟨q, rfl, _⟩ | ⟨j, rfl, _⟩ | ⟨rfl, _⟩ := h <;>
        exact .inr (.inr ⟨rfl, run', [], hseq, hr, (List.append_nil _).symm, rfl⟩)
    | wrote d payload bytes r data hv =>
      exact .inr (.inr ⟨rfl, run', _, hseq, hr, rfl, by rw [Stmt.shownCall, hv]; rfl⟩)
    | read => exact .inr (.inr ⟨rfl, run', _, hseq, hr, rfl, rfl⟩)
    | slept => exact .inr (.inr ⟨rfl, run', _, hseq, hr, rfl, rfl⟩)
    | result => exact .inr (.inr ⟨rfl, run', [], hseq, hr, (List.append_nil _).symm, rfl⟩)
    | outcfg => exact .inr (.inr ⟨rfl, run', [], hseq, hr, (List.append_nil _).symm, rfl⟩)
    | stored => exact .inr (.inr ⟨rfl, run', [], hseq, hr, (List.append_nil _).symm, rfl⟩)
    | badPort => cases hseq
    | badLen => cases hseq
    | badChar => cases hseq
    | valueRaises => cases hseq
    | payloadRaises => cases hseq
    | callFailed => cases hseq

theorem execTimes_succ_next {i : Instr} {n : Nat} {s t : State} (h : execTimes i (n + 1) s = .next t) :
    ∃ u, exec i s = .next u ∧ execTimes i n u = .next t := by
  simp only [execTimes] at h
  split at h
  · exact ⟨_, ‹_›, h⟩
  · cases h
  · cases h

/-- An ended command performs nothing more. -/
theorem execTimes_of_idle {i : Instr} {n : Nat} {s t : State} (hs : s.seq = .idle) (h : execTimes i n s = .next t) :
    t = s := by
  cases n with
  | zero => cases h; rfl
  | succ n =>
    obtain ⟨u, hu, _⟩ := execTimes_succ_next h
    rw [exec_eq_perform] at hu
    obtain ⟨run, hrun, _⟩ := perform_next hu
    exact absurd (hs.symm.trans hrun) nofun

/-- At every moment of a run the calls made are the first ones of those its remaining statements spell. -/
theorem execTimes_madeFirst {i : Instr} {n : Nat} {s t : State} {run : Run} (hs : s.seq = .running run)
    (h : execTimes i n s = .next t) :
    s.MadeFirst (spelledCalls s.pinlen s.pinstr s.delay run.ps ((program s.cfg i).drop run.pos)) t := by
  induction n generalizing s run with
  | zero =>
    cases h
    exact .of_same rfl
  | succ n ih =>
    obtain ⟨u, hu, hn⟩ := execTimes_succ_next h
    rw [exec_eq_perform] at hu
    obtain ⟨run', hs', ⟨st, hst, he⟩ | ⟨_, rfl⟩⟩ := perform_next hu <;> cases hs.symm.trans hs'
    · obtain rfl | ⟨hidle, htrace⟩ | ⟨hok, run', es, hseq, hr, htrace, hes⟩ := effect_calls he
      · exact ih hs hn
      · exact .of_same (execTimes_of_idle hidle hn ▸ htrace)
      · obtain ⟨es', htrace', hes'⟩ := ih hseq hn
        obtain ⟨hlt, hget⟩ := List.getElem?_eq_some_iff.mp hst
        have hsame := effect_sameOperands he
        rw [hsame.pinlen, hsame.pinstr, hsame.delay, hsame.cfg, hr.pos, hr.ps] at hes'
        refine ⟨es ++ es', by rw [htrace', htrace, List.append_assoc], ?_⟩
        rw [List.drop_eq_getElem_cons hlt, hget, spelledCalls, if_pos hok, List.map_append, List.map_append, hes]
        exact (List.prefix_append_right_inj _).mpr hes'
    · exact .of_same (execTimes_of_idle (State.complete_seq s) hn ▸ rfl)

/-! ### The calls of a command -/

section
variable {pinlen : BitVec 6} {pinstr : Vector Byte 32} {delay : Word} {ps : Option PatternState}

/-- Statements that make calls spell them. -/
theorem Compiles.spelledCalls_eq {fin : State → State} {l : List Stmt} {cs : List Call}
    (h : Compiles pinlen pinstr fin ps l cs) :
    spelledCalls pinlen pinstr delay ps l = cs.map (Call.shown delay) := by
  induction h with
  | nil => rfl
  | outcfg => rfl
  | result => rfl
  | port p h _ ih => exact (spelledCalls_cons (.checkPort p) _ (decide_eq_true h) fun _ => rfl).trans ih
  | len h _ ih => exact (spelledCalls_cons .checkPinLen _ (beq_iff_eq.mpr h) fun _ => rfl).trans ih
  | char k h _ ih => exact (spelledCalls_cons (.checkPinChar k) _ h fun _ => rfl).trans ih
  | write d payload bytes h _ ih =>
    rw [spelledCalls_cons _ _ rfl fun _ => rfl, spelledCalls_cons _ _ rfl fun _ => rfl, ih, Stmt.shownCall, h]
    rfl
  | read d base k0 k1 k2 _ _ _ _ ih =>
    rw [spelledCalls_cons _ _ rfl fun _ => rfl, spelledCalls_cons _ _ rfl fun _ => rfl,
      spelledCalls_cons _ _ rfl fun _ => rfl, spelledCalls_cons _ _ rfl fun _ => rfl,
      spelledCalls_cons _ _ rfl fun _ => rfl, ih]
    rfl
  | sleep _ ih => exact (spelledCalls_cons .sleep _ rfl fun _ => rfl).trans (congrArg (Call.shown delay .sleep :: ·) ih)
  | setPort q _ ih => exact ih
  | setI j _ ih => exact ih
  | fillAcc _ ih => exact ih

/-- A failing character among those SETPINS checks leaves no call (41_port_controller R176). -/
theorem spelledCalls_pinChars {ks : List (Fin 32)} (l : List Stmt) (h : ¬ ∀ k ∈ ks, isPinChar pinstr[k] = true) :
    spelledCalls pinlen pinstr delay ps (ks.map .checkPinChar ++ l) = [] := by
  induction ks with
  | nil => exact absurd nofun h
  | cons k ks ih =>
    cases hk : isPinChar pinstr[k] with
    | false => exact spelledCalls_cons_failing _ _ hk
    | true =>
      refine (spelledCalls_cons (.checkPinChar k) _ hk fun _ => rfl).trans (ih fun hks => h ?_)
      exact List.forall_mem_cons.mpr ⟨hk, hks⟩

end

/-- A command with invalid arguments spells no call (60_exceptions R260, R262). -/
theorem spelledCalls_invalid {s : State} {i : Instr} (h : ¬ s.argumentsValid i = true) (ps : Option PatternState) :
    spelledCalls s.pinlen s.pinstr s.delay ps (program s.cfg i) = [] := by
  cases i with
  | wrport p b => exact spelledCalls_cons_failing _ _ (decide_eq_false (mt validPort_isSome.mpr h))
  | regaddr p f m => exact spelledCalls_cons_failing _ _ (decide_eq_false (mt validPort_isSome.mpr h))
  | setpins =>
    have hv := mt (pinsValid_iff s).mpr h
    by_cases hlen : s.pinlen = 24#6
    · refine (spelledCalls_cons .checkPinLen _ (beq_iff_eq.mpr hlen) fun _ => rfl).trans (spelledCalls_pinChars _ fun hchars => ?_)
      exact hv ⟨hlen, hchars⟩
    · exact spelledCalls_cons_failing _ _ (beq_eq_false_iff_ne.mpr hlen)
  | _ => exact absurd rfl h

/-- The rule gives a command with invalid arguments no calls. -/
theorem calls_invalid {s : State} {i : Instr} (h : ¬ s.argumentsValid i = true) : s.calls i = [] := by
  cases i with
  | wrport p b => rw [State.calls, validPort, dif_neg (mt validPort_isSome.mpr h)]
  | regaddr p f m => rfl
  | setpins => exact if_neg h
  | _ => exact absurd rfl h

/-- The program of a command spells the calls of its rule. -/
theorem spelledCalls_program (s : State) (i : Instr) :
    spelledCalls s.pinlen s.pinstr s.delay (initialPattern (encode i)) (program s.cfg i)
      = (s.calls i).map (Call.shown s.delay) := by
  by_cases hv : s.argumentsValid i = true
  · exact (compiles_program hv).spelledCalls_eq
  · rw [spelledCalls_invalid hv, calls_invalid hv, List.map_nil]

/-- Settles O40: a run makes the first ones of the calls its statements spell, which are those of the rule. -/
theorem callsAreAlwaysAPrefixOfTheRule : Obligations.CallsAreAlwaysAPrefixOfTheRule := by
  intro i s t n hstart h
  obtain ⟨es, htrace, hes⟩ := execTimes_madeFirst hstart h
  rw [Run.start, List.drop_zero, spelledCalls_program, List.map_map] at hes
  refine ⟨es, es.length, htrace, ?_⟩
  rw [List.prefix_iff_eq_take.mp hes, List.map_take, List.length_map]
  rfl

end Sys2Proof.Machine
end

section
/-! The decoder and the encoder (30_encoding R100 to R104): a row that accepts a word decodes it, and a word that a row
accepts is the word of what the row reads, because the row's mask leaves out exactly the bits of its operands. -/

namespace Sys2Proof

/-! ### Fields through their operand values -/

@[simp] theorem Mode.toBit_ofBit (b : Bool) : (Mode.ofBit b).toBit = b := by cases b <;> rfl

@[simp] theorem Level.toBit_ofBit (b : Bool) : (Level.ofBit b).toBit = b := by cases b <;> rfl

@[simp] theorem AddrMode.toBit_ofBit (b : Bool) : (AddrMode.ofBit b).toBit = b := by cases b <;> rfl

@[simp] theorem Family.toBits_ofBits (b : BitVec 2) : (Family.ofBits b).toBits = b := by
  revert b
  decide

end Sys2Proof

namespace Sys2Proof.Machine

open Sys2Proof.Laws

/-! ### A row that accepts a word decodes it -/

/-- Members of a list that a function tells apart are the same where it gives the same. -/
theorem eq_of_nodup_map {α β : Type} {f : α → β} {l : List α} {a b : α} (h : (l.map f).Nodup) (ha : a ∈ l) (hb : b ∈ l)
    (hab : f a = f b) : a = b := by
  induction l with
  | nil => cases ha
  | cons c l ih =>
    obtain ⟨hc, hl⟩ := List.nodup_cons.mp h
    obtain rfl | hal := List.mem_cons.mp ha
    · obtain rfl | hbl := List.mem_cons.mp hb
      · rfl
      · exact (hc (List.mem_map.mpr ⟨b, hbl, hab.symm⟩)).elim
    · obtain rfl | hbl := List.mem_cons.mp hb
      · exact (hc (List.mem_map.mpr ⟨a, hal, hab⟩)).elim
      · exact ih hl hal hbl

/-- No two rows share an opcode (30_encoding R102, R103). -/
theorem row_eq_of_opc {r r' : Row} (hr : r ∈ rows) (hr' : r' ∈ rows) (h : fieldOpc r.pattern = fieldOpc r'.pattern) :
    r = r' := by
  have hnodup : (rows.map fun r => fieldOpc r.pattern).Nodup := by decide
  exact eq_of_nodup_map hnodup hr hr' h

/-- No two rows accept one word (30_encoding R103). -/
theorem row_eq_of_accepts {r r' : Row} {w : Word} (hr : r ∈ rows) (hr' : r' ∈ rows) (h : r.accepts w = true)
    (h' : r'.accepts w = true) : r = r' :=
  row_eq_of_opc hr hr' ((fieldOpc_of_accepts hr h).symm.trans (fieldOpc_of_accepts hr' h'))

theorem exists_firstRow {w : Word} {r : Row} {rs : List Row} (hr : r ∈ rs) (h : r.accepts w = true) :
    ∃ i, firstRow w rs = some i := by
  induction rs with
  | nil => cases hr
  | cons r' rs ih =>
    unfold firstRow
    split
    · exact ⟨_, rfl⟩
    · obtain rfl | hr := List.mem_cons.mp hr
      · contradiction
      · exact ih hr

/-- The decoder reads a word by the row that accepts it (30_encoding R103). -/
theorem decodeWord_of_accepts {w : Word} {r : Row} (hr : r ∈ rows) (h : r.accepts w = true) :
    decodeWord w = .ok (r.read w) := by
  obtain ⟨i, hi⟩ := exists_firstRow hr h
  obtain ⟨r', hr', h', rfl⟩ := firstRow_some hi
  cases row_eq_of_accepts hr hr' h h'
  rw [decodeWord, hi]

/-! ### What a row reads, encoded again -/

/-- The word of every command matches its row. -/
theorem encodesItsRow (i : Instr) : EncodesItsRow.Statement i := by
  cases i with
  | cfgout => exact EncodesItsRow.cfgout
  | wrport p b => exact EncodesItsRow.wrport p b
  | setall l => exact EncodesItsRow.setall l
  | setpins => exact EncodesItsRow.setpins
  | dump => exact EncodesItsRow.dump
  | regaddr p f m => exact EncodesItsRow.regaddr p f m
  | move1 m => exact EncodesItsRow.move1 m
  | move1in8 m => exact EncodesItsRow.move1in8 m
  | move1in4 m => exact EncodesItsRow.move1in4 m
  | incr1in8 m => exact EncodesItsRow.incr1in8 m
  | decr1in8 m => exact EncodesItsRow.decr1in8 m
  | alternate => exact EncodesItsRow.alternate

/-- What a row reads is a command of that row. -/
theorem rows_matchMask (w : Word) : ∀ r ∈ rows, matchMask (r.read w) = (r.pattern, r.mask) := by
  simp only [rows, portRows, patternRows, List.cons_append, List.nil_append, List.forall_mem_cons]
  exact ⟨rfl, rfl, rfl, rfl, rfl, rfl, rfl, rfl, rfl, rfl, rfl, rfl, nofun⟩

/-- Words that agree under a mask and on the bits it leaves out are the same. -/
theorem eq_of_and_eq {v w mask : Word} (h : v &&& mask = w &&& mask)
    (hfree : ∀ k, k < 32 → mask.getLsbD k = false → v.getLsbD k = w.getLsbD k) : v = w := by
  refine BitVec.eq_of_getLsbD_eq fun k hk => ?_
  cases hm : mask.getLsbD k with
  | false => exact hfree k hk hm
  | true => simpa [hm] using congrArg (BitVec.getLsbD · k) h

/-- A field's bits are the word's. -/
theorem getLsbD_field {w : Word} {lo n k : Nat} (hlo : lo ≤ k) (hhi : k < lo + n) :
    (w.extractLsb' lo n).getLsbD (k - lo) = w.getLsbD k := by
  have hlt : k - lo < n := by omega
  rw [BitVec.getLsbD_extractLsb', decide_eq_true hlt, Bool.true_and, Nat.add_sub_cancel' hlo]

/-- The bit the mode commands' masks leave out is M (30_encoding R103). -/
theorem modeWord_free {w : Word} (opc : Byte) {k : Nat} (hk : k < 32) (hfree : (0xFFFFFEFF#32 : Word).getLsbD k = false) :
    (modeWord opc (fieldM w)).getLsbD k = w.getLsbD k := by
  obtain rfl : k = 8 := by revert k; decide
  exact fieldM_assembleFields ..

/-- The bits WRPORT's mask leaves out are PORT and DATA (30_encoding R103). -/
theorem wrport_free {w : Word} {k : Nat} (hk : k < 32) (hfree : (0xFF00F9FF#32 : Word).getLsbD k = false) :
    (encode (.wrport (fieldPort w).toNat (fieldData w))).getLsbD k = w.getLsbD k := by
  have hbits : 9 ≤ k ∧ k < 11 ∨ 16 ≤ k ∧ k < 24 := by revert k; decide
  rw [encode, BitVec.ofNat_toNat, BitVec.setWidth_eq, getLsbD_assembleFields, if_neg (by omega), if_neg (by omega)]
  obtain ⟨hlo, hhi⟩ | ⟨hlo, hhi⟩ := hbits
  · rw [if_pos hhi]
    exact getLsbD_field hlo hhi
  · rw [if_neg (by omega), if_neg (by omega), if_neg (by omega), if_neg (by omega), if_pos hhi]
    exact getLsbD_field hlo hhi

/-- The bits REGADDR's mask leaves out are PORT, FAM and AI (30_encoding R103). -/
theorem regaddr_free {w : Word} {k : Nat} (hk : k < 32) (hfree : (0xFFFFC1FF#32 : Word).getLsbD k = false) :
    (encode (.regaddr (fieldPort w).toNat (Family.ofBits (fieldFam w)) (AddrMode.ofBit (fieldAi w)))).getLsbD k
      = w.getLsbD k := by
  have hbits : 9 ≤ k ∧ k < 11 ∨ 11 ≤ k ∧ k < 13 ∨ k = 13 := by revert k; decide
  rw [encode, BitVec.ofNat_toNat, BitVec.setWidth_eq, Family.toBits_ofBits, AddrMode.toBit_ofBit,
    getLsbD_assembleFields, if_neg (by omega), if_neg (by omega)]
  obtain ⟨hlo, hhi⟩ | ⟨hlo, hhi⟩ | rfl := hbits
  · rw [if_pos hhi]
    exact getLsbD_field hlo hhi
  · rw [if_neg (by omega), if_pos hhi]
    exact getLsbD_field hlo hhi
  · rfl

/-- Every row's mask leaves out the bits of the row's operands only, so the encoder puts them back (30_encoding R101). -/
theorem rows_free (w : Word) : ∀ r ∈ rows, ∀ k, k < 32 → r.mask.getLsbD k = false →
    (encode (r.read w)).getLsbD k = w.getLsbD k := by
  have hall : ∀ k, k < 32 → (0xFFFFFFFF#32 : Word).getLsbD k ≠ false := by decide
  have hfull (v : Word) : ∀ k, k < 32 → (0xFFFFFFFF#32 : Word).getLsbD k = false → v.getLsbD k = w.getLsbD k :=
    fun k hk h => absurd h (hall k hk)
  simp only [rows, portRows, patternRows, List.cons_append, List.nil_append, List.forall_mem_cons, encode,
    Level.toBit_ofBit, Mode.toBit_ofBit]
  exact ⟨hfull _, fun _ => wrport_free, fun _ => modeWord_free _, hfull _, hfull _, fun _ => regaddr_free,
    fun _ => modeWord_free _, fun _ => modeWord_free _, fun _ => modeWord_free _, fun _ => modeWord_free _,
    fun _ => modeWord_free _, hfull _, nofun⟩

/-- A word that a row accepts is the word of what the row reads. -/
theorem encode_read {r : Row} {w : Word} (hr : r ∈ rows) (h : r.accepts w = true) : encode (r.read w) = w := by
  have hrow := (encodesItsRow (r.read w)).1
  rw [rows_matchMask w r hr] at hrow
  exact eq_of_and_eq (hrow.trans (eq_of_beq h).symm) (rows_free w r hr)

/-- What a row reads has a command word: its PORT comes from a field of two bits (30_encoding R100, R114). -/
theorem rows_wellFormed (w : Word) : ∀ r ∈ rows, (r.read w).wellFormed = true := by
  have hport : portEncodable (fieldPort w).toNat = true := decide_eq_true (fieldPort w).isLt
  simp only [rows, portRows, patternRows, List.cons_append, List.nil_append, List.forall_mem_cons]
  exact ⟨rfl, hport, rfl, rfl, rfl, hport, rfl, rfl, rfl, rfl, rfl, rfl, nofun⟩

/-- Settles O2: the row that accepts the word has put every bit of it either in the match or in an operand. -/
theorem encodeOfDecodeIsIdentity : Obligations.EncodeOfDecodeIsIdentity := by
  intro w i hd
  obtain ⟨r, hr, ha, rfl⟩ := decodeWord_row hd
  exact ⟨rows_wellFormed w r hr, encode_read hr ha⟩

/-! ### The word of a command, decoded again -/

theorem fieldM_modeWord (opc : Byte) (m : Bool) : fieldM (modeWord opc m) = m := fieldM_assembleFields ..

/-- A mode comes back from the word of its command. -/
theorem mode_of_modeWord (opc : Byte) (m : Mode) : Mode.ofBit (fieldM (modeWord opc m.toBit)) = m := by
  rw [fieldM_modeWord, Mode.ofBit_toBit]

/-- The row of a well-formed command reads its operands back from its word. -/
theorem exists_row_reading {i : Instr} (h : i.wellFormed = true) :
    ∃ r ∈ rows, (r.pattern, r.mask) = matchMask i ∧ r.read (encode i) = i := by
  cases i with
  | cfgout => exact ⟨rows[0], List.getElem_mem _, rfl, rfl⟩
  | wrport p b => exact ⟨rows[1], List.getElem_mem _, rfl, by simp [rows, portRows, encode, port_ofNat_toNat h]⟩
  | setall l => exact ⟨rows[2], List.getElem_mem _, rfl, by simp [rows, portRows, encode, fieldM_modeWord]⟩
  | setpins => exact ⟨rows[3], List.getElem_mem _, rfl, rfl⟩
  | dump => exact ⟨rows[4], List.getElem_mem _, rfl, rfl⟩
  | regaddr p f m => exact ⟨rows[5], List.getElem_mem _, rfl, by simp [rows, portRows, encode, port_ofNat_toNat h]⟩
  | move1 m => exact ⟨rows[6], List.getElem_mem _, rfl, congrArg Instr.move1 (mode_of_modeWord _ m)⟩
  | move1in8 m => exact ⟨rows[7], List.getElem_mem _, rfl, congrArg Instr.move1in8 (mode_of_modeWord _ m)⟩
  | move1in4 m => exact ⟨rows[8], List.getElem_mem _, rfl, congrArg Instr.move1in4 (mode_of_modeWord _ m)⟩
  | incr1in8 m => exact ⟨rows[9], List.getElem_mem _, rfl, congrArg Instr.incr1in8 (mode_of_modeWord _ m)⟩
  | decr1in8 m => exact ⟨rows[10], List.getElem_mem _, rfl, congrArg Instr.decr1in8 (mode_of_modeWord _ m)⟩
  | alternate => exact ⟨rows[11], List.getElem_mem _, rfl, rfl⟩

/-- Settles O1: the word matches the command's row, which is the only one that accepts it and reads the operands back. -/
theorem decodeOfEncodeIsIdentity : Obligations.DecodeOfEncodeIsIdentity := by
  intro i hi
  obtain ⟨r, hr, hrow, hread⟩ := exists_row_reading hi
  have hmatch := (encodesItsRow i).1
  rw [← hrow] at hmatch
  rw [decodeWord_of_accepts hr (beq_iff_eq.mpr hmatch), hread]

/-! ### The table of 30_encoding R103 -/

/-- The table of the claim has the decoder's matches and masks. -/
theorem matchMaskTable_eq : Claims.matchMaskTable = rows.map fun r => (r.mnemonic, r.pattern, r.mask) := rfl

theorem rows_mnemonic (w : Word) : ∀ r ∈ rows, mnemonic (r.read w) = r.mnemonic := by
  simp only [rows, portRows, patternRows, List.cons_append, List.nil_append, List.forall_mem_cons]
  exact ⟨rfl, rfl, rfl, rfl, rfl, rfl, rfl, rfl, rfl, rfl, rfl, rfl, nofun⟩

theorem row_eq_of_mnemonic {r r' : Row} (hr : r ∈ rows) (hr' : r' ∈ rows) (h : r.mnemonic = r'.mnemonic) : r = r' := by
  have hnodup : (rows.map Row.mnemonic).Nodup := by decide
  exact eq_of_nodup_map hnodup hr hr' h

/-- A word is legal for a row exactly when it decodes to one of the row's commands (30_encoding R103). -/
theorem accepts_iff {r : Row} (hr : r ∈ rows) (w : Word) :
    r.accepts w = true ↔ ∃ i, decodeWord w = .ok i ∧ mnemonic i = r.mnemonic := by
  constructor
  · exact fun h => ⟨r.read w, decodeWord_of_accepts hr h, rows_mnemonic w r hr⟩
  · rintro ⟨i, hd, hi⟩
    obtain ⟨r', hr', ha, rfl⟩ := decodeWord_row hd
    rw [rows_mnemonic w r' hr'] at hi
    exact row_eq_of_mnemonic hr' hr hi ▸ ha

/-- Settles O3: the table is the decoder's rows, of which at most one accepts a word. -/
theorem legalWordsMatchTheTable : Obligations.LegalWordsMatchTheTable := by
  intro w
  rw [matchMaskTable_eq]
  simp only [List.forall_mem_map]
  refine ⟨fun r hr => ?_, fun r hr r' hr' h h' => ?_, fun i hd => ?_⟩
  · rw [← accepts_iff hr, Row.accepts, beq_iff_eq]
  · rw [row_eq_of_accepts hr hr' (beq_iff_eq.mpr h) (beq_iff_eq.mpr h')]
  · obtain ⟨r, hr, _, rfl⟩ := decodeWord_row hd
    exact ⟨_, List.mem_map_of_mem hr, rows_mnemonic w r hr⟩

/-- Settles O4, by running the decoder on each word. -/
theorem writtenOutWordsDecode : Obligations.WrittenOutWordsDecode :=
  ⟨rfl, rfl, rfl, rfl, rfl, rfl, rfl, rfl, rfl⟩

end Sys2Proof.Machine
end

section
/-! The host's side of the encoding: the latch of a CMD write (30_encoding R110), WAIT and PINS (R116), lines of text
(R114, R115), and the bits of a register address (R108). -/

namespace Sys2Proof.Machine

/-! ### CMD (30_encoding R110) -/

theorem writeWindow_cmd {s : State} (hb : s.status.busy = false) (w : Word) : s.writeWindow 0x00 w = s.latch w := by
  simp [State.writeWindow, hb]

theorem initialPattern_eq (w : Word) : initialPattern w
    = if 0x10 ≤ (fieldOpc w).toNat ∧ (fieldOpc w).toNat ≤ 0x15
      then some { acc := 0x00#8, mode := Mode.ofBit (w.getLsbD 8), port := 0, i := 0 } else none := by
  simp [initialPattern, isPatternWord, fieldM]

/-- Settles O15: the write latches, and the latch ends in one of two ways. -/
theorem cmdWriteLatches : Obligations.CmdWriteLatches := by
  intro s w hb
  have hwrite : s.memWrite 0x00 4 w = .next ((s.log (.hostWrite 0x00 w)).latch w) := by
    rw [memWrite_admitted s w (by decide), writeWindow_cmd (s := s.log _) hb]
  rw [hwrite]
  obtain ⟨e, hd, h⟩ | ⟨i, hd, h⟩ := latch_cases (s.log (.hostWrite 0x00 w)) w <;> rw [h, hd]
  · exact ⟨fun _ _ => rfl, nofun⟩
  · exact ⟨nofun, fun _ _ => ⟨Run.start w, rfl, rfl, initialPattern_eq w, rfl⟩⟩

/-! ### WAIT (30_encoding R116) -/

theorem getLsbD_statusWord_zero (st : Status) : st.toWord.getLsbD 0 = st.busy := by
  rw [getLsbD_statusWord]
  simp

/-- Settles O22: bit 0 of the value read is BUSY. -/
theorem waitPollsUntilIdle : Obligations.WaitPollsUntilIdle := by
  intro s rest hhost
  simp only [State.hostTurn, hhost, readWindow_status, getLsbD_statusWord_zero]
  rw [memRead_admitted _ (by decide)]
  cases hb : s.status.busy with
  | false => rfl
  | true => rw [if_pos rfl, if_pos rfl, ← hhost]; rfl

/-! ### PINS (30_encoding R116) -/

theorem hostWrites_single (off width : Nat) (v : Word) (s : State) :
    Claims.hostWrites [.write off width v] s = s.writeWindow off v := rfl

/-- The writes of the first `n` words of a pin string (30_encoding R116). -/
def pinsWrites (chars : List Nat) (n : Nat) : List HostStmt :=
  (List.range n).map fun k => .write (0x20 + 4 * k) 4 (pinsWord chars k)

theorem pinsWrites_succ (chars : List Nat) (n : Nat) :
    pinsWrites chars (n + 1) = pinsWrites chars n ++ [.write (0x20 + 4 * n) 4 (pinsWord chars n)] := by
  rw [pinsWrites, List.range_succ, List.map_append]
  rfl

/-- Writing the first `n` words of a pin string on an idle block puts its lanes at their places (20_memory R76). -/
theorem hostWrites_pinsWords (chars : List Nat) (rest : List HostStmt) {s : State} (hb : s.status.busy = false) {n : Nat}
    (hn : n ≤ 8) :
    ∃ t : State, Claims.hostWrites (pinsWrites chars n ++ rest) s = Claims.hostWrites rest t
      ∧ t.status.busy = false
      ∧ ∀ (k : Nat) (h : k < 32), k < 4 * n → t.pinstr[k] = pinsLane chars (k / 4) (k % 4) := by
  induction n generalizing rest with
  | zero => exact ⟨s, rfl, hb, fun k _ h => absurd h (Nat.not_lt_zero k)⟩
  | succ n ih =>
    rw [pinsWrites_succ, List.append_assoc]
    obtain ⟨t, ht, hbt, hlanes⟩ := ih ([.write (0x20 + 4 * n) 4 (pinsWord chars n)] ++ rest) (by omega)
    refine ⟨{ t with pinstr := setPinstrWord t.pinstr ⟨n, hn⟩ (pinsWord chars n) }, ?_, hbt, fun k hk hlt => ?_⟩
    · rw [ht, ← writeWindow_pinstr hbt ⟨n, hn⟩]
      rfl
    · rw [getElem_setPinstrWord]
      by_cases hkn : k / 4 = n
      · rw [if_pos hkn, hkn]
        exact lane_ofLanes_get (fun j => pinsLane chars n j.val) ⟨k % 4, by omega⟩
      · rw [if_neg hkn]
        exact hlanes k hk (by omega)

/-- A lane of a pin string is the code of its character (30_encoding R116). -/
theorem pinsLane_toNat {chars : List Nat} (hc : ∀ c ∈ chars, c < 256) (k : Nat) :
    (pinsLane chars (k / 4) (k % 4)).toNat = chars.getD k 0 := by
  have hlt : chars.getD k 0 < 256 := by
    rw [List.getD_eq_getElem?_getD]
    cases h : chars[k]? with
    | none => decide
    | some c => exact hc c (List.mem_of_getElem? h)
  rw [pinsLane, Nat.div_add_mod, BitVec.toNat_ofNat]
  exact Nat.mod_eq_of_lt hlt

theorem expandPins_eq {chars : List Nat} (hlen : chars.length ≤ 32) (hc : ∀ c ∈ chars, c < 256) :
    expandPins chars = some (pinsWrites chars ((chars.length + 3) / 4)
      ++ [.write 0x14 4 (BitVec.ofNat 32 chars.length)]) :=
  if_pos ⟨hlen, by simpa using hc⟩

/-- Settles O23: the words put every lane at its place, and then the length goes to PINLEN. -/
theorem pinsWritesTheString : Obligations.PinsWritesTheString := by
  intro chars s hlen hc hb
  refine ⟨_, expandPins_eq hlen hc, fun st hst => ?_, ?_⟩
  · obtain hst | hst := List.mem_append.mp hst
    · obtain ⟨k, hk, rfl⟩ := List.mem_map.mp hst
      have hk := List.mem_range.mp hk
      exact ⟨_, _, rfl, admitted_iff.mpr ⟨rfl, by omega, by omega⟩⟩
    · cases List.mem_singleton.mp hst
      exact ⟨_, _, rfl, by decide⟩
  · obtain ⟨t, ht, hbt, hlanes⟩ := hostWrites_pinsWords chars [.write 0x14 4 (BitVec.ofNat 32 chars.length)] hb
      (n := (chars.length + 3) / 4) (by omega)
    rw [ht, hostWrites_single, writeWindow_pinlen hbt]
    refine ⟨?_, fun k hk hlt => ?_⟩
    · refine BitVec.eq_of_toNat_eq ?_
      simp only [BitVec.extractLsb'_toNat, BitVec.toNat_ofNat, Nat.shiftRight_zero]
      omega
    · rw [hlanes k hk (by omega), pinsLane_toNat hc]

/-! ### Lines of text (30_encoding R114 to R116) -/

/-- Settles O24, by running the assembler on each text. -/
theorem assembledLinesAreTheirWords : Obligations.AssembledLinesAreTheirWords :=
  ⟨rfl, rfl, rfl, rfl, rfl, rfl, rfl⟩

/-! ### Register addresses (30_encoding R108) -/

/-- RegisterMap gives R108's bits, and fails only for a port outside 0, 1, 2 (40_register_map_and_bus R140, R141). -/
theorem regMap_some {p : Nat} {f : Family} {m : AddrMode} {a : Byte} (h : regMap p f m = some a) :
    p < 3 ∧ a = addressBits p f m := by
  by_cases hp : p < 3
  · have hv := regMapValue_eq_addressBits hp f m
    rw [regMapValue, h] at hv
    exact ⟨hp, Except.ok.inj hv⟩
  · rw [regMap, if_neg hp] at h
    cases h

/-- The fields of an address by their places (30_encoding R108). -/
theorem addressFields : ∀ (ai : Bool) (fam port : BitVec 2),
    (BitVec.ofBool ai ++ 0#3 ++ fam ++ port).getLsbD 7 = ai
      ∧ (BitVec.ofBool ai ++ 0#3 ++ fam ++ port).extractLsb' 4 3 = 0#3
      ∧ (BitVec.ofBool ai ++ 0#3 ++ fam ++ port).extractLsb' 2 2 = fam
      ∧ (BitVec.ofBool ai ++ 0#3 ++ fam ++ port).extractLsb' 0 2 = port := by
  decide

/-- An address's fields add up, each at its place (30_encoding R108). -/
theorem addressBits_toNat {p : Nat} (hp : p < 3) (f : Family) (m : AddrMode) :
    (addressBits p f m).toNat = 0x80 * m.toBit.toNat + 0x04 * f.toBits.toNat + p := by
  simp only [addressBits, toNat_append_eq_add, BitVec.toNat_ofBool, BitVec.toNat_ofNat]
  omega

/-- Settles O26: the address is R108's fields, appended. -/
theorem registerAddressLayout : Obligations.RegisterAddressLayout := by
  intro p f m a h
  obtain ⟨hp, rfl⟩ := regMap_some h
  obtain ⟨hai, hzero, hfam, hport⟩ := addressFields m.toBit f.toBits (BitVec.ofNat 2 p)
  exact ⟨hai, hzero, hfam, hport, hp, addressBits_toNat hp f m⟩

end Sys2Proof.Machine
end

section
/-! The sequencer's turn (30_encoding R111, R112): it performs `exec` of the decoded command, and under the invariant
every command answers and, while calls return, moves on. -/

namespace Sys2Proof.Machine

/-! ### The sequencer's turn (30_encoding R111) -/

/-- Settles O9. -/
theorem sequencerTurnRunsTheDecodedCommand : Obligations.SequencerTurnRunsTheDecodedCommand := by
  intro s run i hs hd
  have hturn {t : State} (ht : t.seq = .running run) : t.sequencerTurn = exec i t := by
    simp only [State.sequencerTurn, ht, hd]
  refine ⟨fun ts hts => ?_, fun hts => ?_⟩
  · rw [step, hts]
    exact hturn hs
  · rw [step, hts]
    simp only [State.defaultTurn, hs]
    exact hturn hs

/-- Settles O29. -/
theorem commandCompletesAtItsEnd : Obligations.CommandCompletesAtItsEnd := by
  intro i s run hs hpos
  rw [exec_eq_perform, perform_end hs (Nat.le_of_eq hpos.symm)]
  rfl

/-! ### Every statement answers (30_encoding R111, 60_exceptions R262) -/

section
variable {s : State} {run : Run}

theorem withValue_answers {α : Type} {v : Except Stop α} (go : α → State) (h : NotRefused v) :
    ∃ t, withValue v s go = .next t := by
  unfold withValue
  split
  · exact ⟨_, rfl⟩
  · exact ⟨_, rfl⟩
  · exact absurd rfl (h _)

theorem updatePattern_answers {i : Instr} (f : PatternState → PatternState) (hp : PatternReady i run.ps)
    (hi : isPattern i = true) : ∃ t, s.updatePattern f run = .next t := by
  obtain ⟨p, hps, _⟩ := hp hi
  rw [State.updatePattern, hps]
  exact ⟨_, rfl⟩

/-- A statement of the running command answers, given its PatternState, its byte to store and a whole read. -/
theorem perform_answers {i : Instr} {st : Stmt} (hst : st.fits i) (hp : PatternReady i run.ps)
    (hstore : ∀ k p, st = .storeDump k p → ∃ b, run.data[p]? = some b)
    (hread : ∀ d n, st = .busRead d n → s.brokenRead n = none) : ∃ t, st.perform run s = .next t := by
  cases st with
  | checkPort p => exact ⟨_, rfl⟩
  | checkPinLen => exact ⟨_, rfl⟩
  | checkPinChar k => exact ⟨_, rfl⟩
  | setOutcfg => exact ⟨_, rfl⟩
  | sleep => exact ⟨_, rfl⟩
  | setResult e => exact withValue_answers _ (ByteExpr.eval_notRefused hp hst)
  | busWrite d payload => exact withValue_answers _ (evalBytes_notRefused hp (Payload.fits hst))
  | busRead d n => exact ⟨_, by rw [Stmt.perform, hread d n rfl]⟩
  | check d => simp only [Stmt.perform]; split <;> exact ⟨_, rfl⟩
  | storeDump k p =>
    obtain ⟨b, hb⟩ := hstore k p rfl
    exact ⟨_, by rw [Stmt.perform, hb]⟩
  | setPort q => exact updatePattern_answers _ hp hst
  | setI j => exact updatePattern_answers _ hp hst.1
  | fillAcc => exact updatePattern_answers _ hp hst

/-- While calls return, a statement ends the command or goes on to the next (10_state R31). -/
theorem effect_moves {st : Stmt} {t : State} (h : Stmt.Effect run s st t) (hr : s.callsReturn 1) :
    t.seq = .idle ∨ ∃ run', t.seq = .running run' ∧ run'.cmd = run.cmd ∧ run'.pos = run.pos + 1 := by
  obtain ⟨hbus, hclock⟩ := hr 0 Nat.zero_lt_one
  cases h with
  | waits _ h =>
    obtain ⟨_, _, _, hn⟩ | ⟨_, n, _, hn⟩ | ⟨_, hn⟩ := h
    · exact absurd hn (hbus 0)
    · exact absurd hn (hbus n)
    · exact absurd hn hclock
  | badPort => exact .inl rfl
  | badLen => exact .inl rfl
  | badChar => exact .inl rfl
  | valueRaises => exact .inl rfl
  | payloadRaises => exact .inl rfl
  | callFailed => exact .inl rfl
  | _ => exact .inr ⟨_, rfl, rfl, rfl⟩

end

/-- Settles O30: the invariant gives the statement at the position what it needs to answer, and an answer of a returning
call moves the position. -/
theorem everyCommandAnswersNext : Obligations.EveryCommandAnswersNext := by
  intro i s run hinv hs hd hr hread
  obtain ⟨_, hseq⟩ := hinv
  obtain ⟨_, _, hrun⟩ := (State.seqInv_running hs).mp hseq
  rw [exec_eq_perform]
  cases hst : (program s.cfg i)[run.pos]? with
  | none => exact ⟨s.complete, perform_end hs (List.getElem?_eq_none_iff.mp hst), .inl rfl⟩
  | some st =>
    obtain ⟨t, ht⟩ := perform_answers (fits_of_program hst) (hrun.patternReady hd)
      (fun k p h => hrun.stored_byte hd (h ▸ hst)) fun d n h => hread d n (h ▸ hst)
    exact ⟨t, (perform_at hs hst).trans ht, effect_moves (perform_effect ht) hr⟩

end Sys2Proof.Machine
end

section
/-! A command run from its latch to its end (30_encoding R111, R112, 60_exceptions R262). With valid arguments its program
compiles to the calls of its rule; with invalid ones a check raises before any call. -/

namespace Sys2Proof.Machine

/-! ### Replies to reads (20_memory R73) -/

/-- Statements without a read leave no reply to keep. -/
theorem Compiles.readsKept_of_no_read {pinlen : BitVec 6} {pinstr : Vector Byte 32} {fin : State → State}
    {ps : Option PatternState} {l : List Stmt} {cs : List Call} (h : Compiles pinlen pinstr fin ps l cs)
    (hl : ∀ d n, .busRead d n ∉ l) (s : State) : readsKept cs s := by
  induction h generalizing s with
  | nil => trivial
  | outcfg => trivial
  | result => trivial
  | read d => exact absurd List.mem_cons_self (hl d 3)
  | write d payload bytes h _ ih => exact ih (fun d n hm => hl d n (.tail _ (.tail _ hm))) _
  | sleep _ ih => exact ih (fun d n hm => hl d n (.tail _ hm)) _
  | port p h _ ih => exact ih (fun d n hm => hl d n (.tail _ hm)) s
  | len h _ ih => exact ih (fun d n hm => hl d n (.tail _ hm)) s
  | char k h _ ih => exact ih (fun d n hm => hl d n (.tail _ hm)) s
  | setPort q _ ih => exact ih (fun d n hm => hl d n (.tail _ hm)) s
  | setI j _ ih => exact ih (fun d n hm => hl d n (.tail _ hm)) s
  | fillAcc _ ih => exact ih (fun d n hm => hl d n (.tail _ hm)) s

/-- Only DUMP reads. -/
theorem no_read_of_ne_dump {c : Params} {i : Instr} (h : i ≠ .dump) (d : Device) (n : Nat) : .busRead d n ∉ program c i :=
  fun hm => h (program_fits c i _ hm).1

theorem readsWhole_afterBus_twice {s : State} (h : s.readsWhole) (e e' : Event) : ((s.afterBus e).afterBus e').readsWhole := by
  intro k data hk
  simp only [State.afterBus, List.getElem?_tail] at hk
  exact h (k + 1) data hk

/-- A pointer write and its read keep the contract where the listed replies do (41_port_controller R180). -/
theorem readsKept_write_read {d d' : Device} {bytes : List Byte} {base : Fin 22} {cs : List Call} {s : State}
    (hs : s.readsWhole) (h : ∀ t : State, t.readsWhole → readsKept cs t) :
    readsKept (.write d bytes :: .read d' base :: cs) s := by
  refine ⟨?_, fun data => h _ (readsWhole_afterBus_twice hs _ _)⟩
  cases hb : State.brokenRead 3 (s.afterBus (.busWrite d.idx d.addr bytes .ok)) with
  | none => rfl
  | some got =>
    obtain ⟨data, rest, hr, hn⟩ := brokenRead_some hb
    refine absurd (hs 0 data ?_) hn
    have hr : s.replies.tail = .returns .ok data :: rest := hr
    rw [Nat.mul_zero, ← List.getElem?_tail, hr]
    rfl

theorem dumpCalls_readsKept (c : Params) {s : State} (hs : s.readsWhole) : readsKept (dumpCalls c) s := by
  unfold dumpCalls
  induction c.devices generalizing s with
  | nil => trivial
  | cons d ds ih =>
    exact readsKept_write_read hs fun _ hs => readsKept_write_read hs fun _ hs => readsKept_write_read hs fun _ hs =>
      readsKept_write_read hs fun _ hs => ih hs

/-! ### How long a program is (10_state R31) -/

section
variable (c : Params)

theorem ndev_le_two : c.ndev ≤ 2 := by
  unfold Params.ndev
  split <;> decide

theorem length_flatMap_const {α : Type} {f : α → List Stmt} {n : Nat} (h : ∀ a, (f a).length = n) (l : List α) :
    (l.flatMap f).length = n * l.length := by
  induction l with
  | nil => rfl
  | cons a l ih => rw [List.flatMap_cons, List.length_append, h, ih, List.length_cons, Nat.mul_succ, Nat.add_comm]

theorem writeReg_length (a : ByteExpr) (data : List ByteExpr) : (writeReg c a data).length = 2 * c.ndev := by
  rw [writeReg, length_flatMap_const (n := 2) fun _ => rfl, Params.devices_length]

theorem writePort_length (p : PortExpr) (b : ByteExpr) : (writePort c p b).length = 2 * c.ndev := writeReg_length c _ _

theorem setAll_length (b : ByteExpr) : (setAll c b).length = 6 * c.ndev := by
  simp only [setAll, List.length_append, writePort_length]
  omega

theorem frame_length (b : ByteExpr) : (frame c b).length = 6 * c.ndev + 1 := by
  rw [frame, List.length_append, setAll_length, List.length_singleton]

theorem framed_length (pol : Polarity) (frames : List Stmt) :
    (framed c pol frames).length = 12 * c.ndev + frames.length := by
  simp only [framed, List.length_append, setAll_length]
  omega

theorem handoffWrite_length (p : Fin 3) : (handoffWrite c p).length ≤ if p.val < 2 then 2 * c.ndev else 0 := by
  unfold handoffWrite
  split
  · rename_i h
    exact Nat.le_of_eq ((writePort_length c _ _).trans (if_pos h.1).symm)
  · exact Nat.zero_le _

/-- The frames of MOVE1 on one port, each with its loop head and its Sleep (42_pattern_engine R210). -/
theorem move1Port_length (p : Fin 3) :
    (move1Port c p).length ≤ 17 + 16 * c.ndev + if p.val < 2 then 2 * c.ndev else 0 := by
  have hturn (j : Fin 8) : (Stmt.setI j :: writePort c .current (.walk .asMode) ++ [Stmt.sleep]).length = 2 * c.ndev + 2 := by
    rw [List.length_append, List.length_cons, writePort_length, List.length_singleton]
  have hloop := length_flatMap_const hturn steps8
  have hsteps : steps8.length = 8 := rfl
  have hhandoff := handoffWrite_length c p
  rw [hsteps] at hloop
  rw [move1Port, List.length_append, List.length_cons, hloop]
  omega

/-- A pattern of `k` turns between resting levels, each of `n` statements (42_pattern_engine R202). -/
theorem framedLoop_length (pol : Polarity) {body : Fin 8 → List Stmt} {n : Nat} (h : ∀ j, (body j).length = n)
    (js : List (Fin 8)) : (framed c pol (js.flatMap body)).length = 12 * c.ndev + n * js.length := by
  rw [framed_length, length_flatMap_const h]

/-- The longest program is MOVE1's of two devices with handoffs. -/
theorem program_length (i : Instr) : (program c i).length ≤ 179 := by
  have hn := ndev_le_two c
  have h8 : steps8.length = 8 := rfl
  have h4 : steps4.length = 4 := rfl
  have hfill (pol : Polarity) : (fillProgram c pol).length ≤ 179 := by
    rw [fillProgram, framedLoop_length c pol (n := 6 * c.ndev + 3) fun _ => congrArg (· + 2) (frame_length c _), h8]
    omega
  cases i with
  | cfgout =>
    rw [program, cfgoutProgram, List.length_append, writeReg_length, List.length_singleton]
    omega
  | wrport p b =>
    rw [program, wrportProgram, List.length_cons, writePort_length]
    omega
  | setall l =>
    rw [program, setallProgram, setAll_length]
    omega
  | setpins =>
    have hchars : pinIndexes.length = 24 := rfl
    rw [program, setpinsProgram, List.length_append, List.length_cons, List.length_map, writeReg_length, hchars]
    omega
  | dump =>
    rw [program, dumpProgram, length_flatMap_const (n := 28) fun _ => rfl, Params.devices_length]
    omega
  | regaddr p f m => exact Nat.le_of_ble_eq_true rfl
  | move1 m =>
    have h0 : (move1Port c 0).length ≤ 17 + 16 * c.ndev + 2 * c.ndev := move1Port_length c 0
    have h1 : (move1Port c 1).length ≤ 17 + 16 * c.ndev + 2 * c.ndev := move1Port_length c 1
    have h2 : (move1Port c 2).length ≤ 17 + 16 * c.ndev + 0 := move1Port_length c 2
    simp only [program, move1Program, framed_length, ports, List.flatMap_cons, List.flatMap_nil, List.length_append,
      List.length_nil]
    omega
  | move1in8 m =>
    rw [program, move1in8Program,
      framedLoop_length c _ (n := 6 * c.ndev + 2) fun _ => congrArg (· + 1) (frame_length c _), h8]
    omega
  | move1in4 m =>
    rw [program, move1in4Program,
      framedLoop_length c _ (n := 6 * c.ndev + 2) fun _ => congrArg (· + 1) (frame_length c _), h4]
    omega
  | incr1in8 m => exact hfill .asMode
  | decr1in8 m => exact hfill .flipped
  | alternate =>
    rw [program, alternateProgram, List.length_append, frame_length, frame_length]
    omega

end

/-! ### From the start -/

/-- At the latch the whole program is ahead (30_encoding R110). -/
theorem Ahead.start (i : Instr) (s : State) : Ahead i s (Run.start (encode i)) (program s.cfg i) :=
  ⟨List.drop_zero, Nat.zero_le _⟩

theorem State.atStart.withSeq_eq {i : Instr} {s : State} (h : s.atStart i) :
    { s with seq := .running (Run.start (encode i)) } = s := by
  unfold State.atStart at h
  rw [← h]

/-- With valid arguments a command makes the calls of its rule (41_port_controller, 42_pattern_engine). -/
theorem run_of_validArguments {i : Instr} {s : State} (hs : s.atStart i) (hv : s.argumentsValid i = true)
    (hr : s.callsReturn (s.calls i).length) (hd : i = .dump → s.readsWhole) :
    ∃ n, n ≤ 180 ∧ execTimes i n s = .next (runCalls (finishOf i) (s.calls i) s) := by
  have hc := compiles_program hv
  have hk : readsKept (s.calls i) s := by
    by_cases hi : i = .dump
    · subst hi
      exact dumpCalls_readsKept s.cfg (hd rfl)
    · exact hc.readsKept_of_no_read (no_read_of_ne_dump hi) s
  obtain ⟨n, hn, hx⟩ := run_of_compiles hc (Ahead.start i s) rfl hr hk rfl rfl
  rw [hs.withSeq_eq] at hx
  exact ⟨n, Nat.le_trans hn (Nat.succ_le_succ (program_length s.cfg i)), hx⟩

/-! ### Invalid arguments (60_exceptions R260, R262) -/

/-- The statements that check an argument (30_encoding R111). -/
def Stmt.isArgumentCheck : Stmt → Bool
  | .checkPort _ | .checkPinLen | .checkPinChar _ => true
  | _ => false

theorem perform_argumentCheck {st : Stmt} (h : st.isArgumentCheck = true) (run : Run) (s : State) :
    st.perform run s = .next (s.checkArgument (st.argumentOk s.pinlen s.pinstr) run) := by
  cases st with
  | checkPort p => rfl
  | checkPinLen => rfl
  | checkPinChar k => rfl
  | _ => cases h

/-- Checks of which one fails end the command in the step of the first that does. -/
theorem run_of_failing_check {i : Instr} {s : State} {run : Run} {l rest : List Stmt} (ha : Ahead i s run (l ++ rest))
    (hl : ∀ st ∈ l, st.isArgumentCheck = true) (hf : ∃ st ∈ l, st.argumentOk s.pinlen s.pinstr = false) :
    ∃ n, n ≤ l.length ∧ execTimes i n { s with seq := .running run } = .next (s.failed .invalidArgument 0) := by
  induction l generalizing run with
  | nil =>
    obtain ⟨_, hmem, _⟩ := hf
    cases hmem
  | cons st l ih =>
    obtain ⟨hst, hl⟩ := List.forall_mem_cons.mp hl
    have hperform := perform_argumentCheck hst run { s with seq := .running run }
    cases hok : st.argumentOk s.pinlen s.pinstr with
    | false =>
      rw [hok] at hperform
      exact ⟨1, Nat.succ_pos _, execTimes_head 0 ha hperform⟩
    | true =>
      rw [hok] at hperform
      have hf : ∃ st ∈ l, st.argumentOk s.pinlen s.pinstr = false := by simpa [hok] using hf
      obtain ⟨n, hn, hx⟩ := ih (ha.tail (run' := { run with pos := run.pos + 1 }) rfl) hl hf
      exact ⟨n + 1, Nat.succ_le_succ hn, (execTimes_head n ha hperform).trans hx⟩

/-- The program of a command with invalid arguments begins with checks of which one fails (40_register_map_and_bus R142,
41_port_controller R172, R176). -/
theorem failing_check_of_invalid {i : Instr} {s : State} (h : ¬ s.argumentsValid i = true) :
    ∃ l rest, program s.cfg i = l ++ rest ∧ (∀ st ∈ l, st.isArgumentCheck = true)
      ∧ ∃ st ∈ l, st.argumentOk s.pinlen s.pinstr = false := by
  have hport {p : Nat} (hp : ¬ p < 3) : ∃ st ∈ [Stmt.checkPort p], st.argumentOk s.pinlen s.pinstr = false :=
    ⟨_, List.mem_singleton_self _, decide_eq_false hp⟩
  cases i with
  | wrport p b => exact ⟨[.checkPort p], _, rfl, List.forall_mem_singleton.mpr rfl, hport (mt validPort_isSome.mpr h)⟩
  | regaddr p f m => exact ⟨[.checkPort p], _, rfl, List.forall_mem_singleton.mpr rfl, hport (mt validPort_isSome.mpr h)⟩
  | setpins =>
    refine ⟨.checkPinLen :: pinIndexes.map .checkPinChar, _, rfl, ?_, ?_⟩
    · simp [Stmt.isArgumentCheck]
    · refine Classical.byContradiction fun hall => mt (pinsValid_iff s).mpr h ?_
      simpa [Stmt.argumentOk] using hall
  | _ => exact absurd rfl h

theorem run_of_invalidArguments {i : Instr} {s : State} (hs : s.atStart i) (h : ¬ s.argumentsValid i = true) :
    ∃ n, n ≤ 180 ∧ execTimes i n s = .next (s.failed .invalidArgument 0) := by
  obtain ⟨l, rest, hprog, hl, hf⟩ := failing_check_of_invalid h
  obtain ⟨n, hn, hx⟩ := run_of_failing_check (hprog ▸ Ahead.start i s) hl hf
  rw [hs.withSeq_eq] at hx
  have hlen := program_length s.cfg i
  rw [hprog, List.length_append] at hlen
  exact ⟨n, by omega, hx⟩

/-- Settles O39: with valid arguments the program makes the calls of the rule, else a check fails before any call. -/
theorem everyCommandRunsAsItsRule : Obligations.EveryCommandRunsAsItsRule := by
  intro i s hs hr hd
  by_cases hv : s.argumentsValid i = true
  · rw [State.endOf, if_pos hv]
    exact run_of_validArguments hs hv hr hd
  · rw [State.endOf, if_neg hv]
    exact run_of_invalidArguments hs hv

end Sys2Proof.Machine
end

section
/-! RegisterMap (40_register_map_and_bus R140, R141, R143): its addresses, and what becomes of a port it does not know. -/

namespace Sys2Proof.Machine

theorem regMap_of_lt {p : Nat} (h : p < 3) (f : Family) (m : AddrMode) :
    regMap p f m = some (regBase f m + BitVec.ofNat 8 p) := if_pos h

theorem regMap_eq_none_iff {p : Nat} {f : Family} {m : AddrMode} : regMap p f m = none ↔ ¬ p < 3 := by
  simp [regMap]

/-- Settles O25. -/
theorem registerMapIsBasePlusPort : Obligations.RegisterMapIsBasePlusPort := fun _ h =>
  ⟨regMap_of_lt h .input .nonAi, regMap_of_lt h .input .ai, regMap_of_lt h .output .nonAi, regMap_of_lt h .output .ai,
    regMap_of_lt h .polarity .nonAi, regMap_of_lt h .polarity .ai, regMap_of_lt h .config .nonAi,
    regMap_of_lt h .config .ai⟩

/-- Settles O27: the address's fields are the mode and the family (30_encoding R108), and what they leave of it is the
port. -/
theorem registerAddressesAreUnique : Obligations.RegisterAddressesAreUnique := by
  intro p q f g m n a hp hq
  obtain ⟨hm, _, hf, _, _, hsump⟩ := registerAddressLayout p f m a hp
  obtain ⟨hn, _, hg, _, _, hsumq⟩ := registerAddressLayout q g n a hq
  have hmode : m.toBit = n.toBit := hm.symm.trans hn
  have hfamily : f.toBits = g.toBits := hf.symm.trans hg
  refine ⟨?_, ?_, ?_⟩
  · rw [hmode, hfamily] at hsump
    omega
  · rw [← Family.ofBits_toBits f, hfamily, Family.ofBits_toBits]
  · rw [← AddrMode.ofBit_toBit m, hmode, AddrMode.ofBit_toBit]

/-- A command that has the check of an invalid port next raises (40_register_map_and_bus R142, 41_port_controller R172). -/
theorem exec_invalidPort {i : Instr} {s : State} {run : Run} {p : Nat} (hs : s.seq = .running run)
    (hst : (program s.cfg i)[run.pos]? = some (.checkPort p)) (hp : ¬ p < 3) :
    exec i s = .next (s.failed .invalidArgument 0) := by
  rw [exec_eq_perform, perform_at hs hst, Stmt.perform, decide_eq_false hp]
  rfl

/-- Settles O28: the port check is the first statement of both commands, and a command word's port has two bits. -/
theorem invalidPortRaisesInvalidArgument : Obligations.InvalidPortRaisesInvalidArgument := by
  intro p f m b
  refine ⟨regMap_eq_none_iff, fun s run hp hs hpos => ?_, fun w hw hp => ?_⟩
  · exact ⟨exec_invalidPort hs (hpos ▸ rfl) hp, exec_invalidPort hs (hpos ▸ rfl) hp⟩
  · have hlt : p < 4 := by
      obtain hd | hd := hw
      · exact of_decide_eq_true (encodeOfDecodeIsIdentity w _ hd).1
      · exact of_decide_eq_true (encodeOfDecodeIsIdentity w _ hd).1
    omega

end Sys2Proof.Machine
end

section
/-! Frames of one statement of a command (10_state R43, R44, R48): which registers a command stores to, and that a
statement that is no call leaves the trace and the answers alone. -/

namespace Sys2Proof.Machine

/-! ### Registers -/

/-- A command's step that answers: the statement at the position, or the end of the rule (30_encoding R111, R112). -/
theorem exec_next {i : Instr} {s t : State} (h : exec i s = .next t) :
    ∃ run, s.seq = .running run ∧
      ((∃ st, (program s.cfg i)[run.pos]? = some st ∧ Stmt.Effect run s st t)
        ∨ ((program s.cfg i)[run.pos]? = none ∧ t = s.complete)) :=
  perform_next ((exec_eq_perform i s).symm.trans h)

theorem exec_sameOperands {i : Instr} {s t : State} (h : exec i s = .next t) : s.SameOperands t := by
  obtain ⟨_, _, ⟨_, _, he⟩ | ⟨_, rfl⟩⟩ := exec_next h
  · exact effect_sameOperands he
  · exact ⟨rfl, rfl, rfl, rfl, rfl, rfl, rfl⟩

/-- What a step of the command `i` can change of OUTCFG, RESULT and DUMP. -/
structure State.StoresAs (i : Instr) (s t : State) : Prop where
  outcfg : t.status.outcfg = s.status.outcfg ∨ t.status.outcfg = true ∧ i = .cfgout
  result : t.result = s.result ∨ ∃ p f m, i = .regaddr p f m
  dump   : t.dump = s.dump ∨ i = .dump

theorem exec_stores {i : Instr} {s t : State} (h : exec i s = .next t) : s.StoresAs i t := by
  obtain ⟨_, _, ⟨st, hst, he⟩ | ⟨_, rfl⟩⟩ := exec_next h
  · have ha := allowed_of_program hst
    obtain ⟨houtcfg, hresult, hdump⟩ := effect_stores he
    refine ⟨houtcfg.imp_right ?_, hresult.imp_right ?_, hdump.imp_right ?_⟩
    · rintro ⟨h1, rfl⟩
      exact ⟨h1, setOutcfg_allowed ha⟩
    · rintro ⟨e, rfl⟩
      exact setResult_allowed ha
    · rintro ⟨k, p, rfl⟩
      exact storeDump_allowed ha
  · exact ⟨.inl rfl, .inl rfl, .inl rfl⟩

theorem State.StoresAs.result_eq {i : Instr} {s t : State} (h : s.StoresAs i t) (hi : ∀ p f m, i ≠ .regaddr p f m) :
    t.result = s.result :=
  h.result.resolve_right fun ⟨p, f, m, e⟩ => hi p f m e

/-- Settles O36. -/
theorem frameOfCfgout : Obligations.FrameOfCfgout := by
  intro s t h
  obtain ⟨hcmd, hdelay, hpinlen, hpinstr, hcfg, hturns, hhost⟩ := exec_sameOperands h
  have hstores := exec_stores h
  have hresult := hstores.result_eq nofun
  have hdump := hstores.dump.resolve_right nofun
  refine ⟨hcmd, hdelay, hresult, hpinlen, hpinstr, hdump, hcfg, hturns, hhost, fun h1 => ?_, fun a ha => ?_⟩
  · exact hstores.outcfg.elim (fun e => e.trans h1) And.left
  · exact windowByte_eq_of_sameRegisters ha hcmd hdelay hresult hcfg hpinlen hpinstr hdump

/-! ### Calls -/

/-- The statements that call the transport or the clock (20_memory R73). -/
def Stmt.isCall : Stmt → Bool
  | .busWrite _ _ | .busRead _ _ | .sleep => true
  | _ => false

/-- What only calls change: the trace and the answers of the transport and the clock. -/
structure State.SameCalls (s t : State) : Prop where
  trace   : t.trace = s.trace
  replies : t.replies = s.replies
  clock   : t.clock = s.clock
  draws   : t.draws = s.draws
  ticks   : t.ticks = s.ticks

theorem effect_sameCalls {st : Stmt} {run : Run} {s t : State} (h : Stmt.Effect run s st t) (hst : st.isCall = false) :
    s.SameCalls t := by
  cases h with
  | wrote => cases hst
  | read => cases hst
  | slept => cases hst
  | _ => exact ⟨rfl, rfl, rfl, rfl, rfl⟩

/-- A command whose program has no call makes none. -/
theorem exec_sameCalls {i : Instr} {s t : State} (h : exec i s = .next t)
    (hi : ∀ st ∈ program s.cfg i, st.isCall = false) : s.SameCalls t := by
  obtain ⟨_, _, ⟨st, hst, he⟩ | ⟨_, rfl⟩⟩ := exec_next h
  · exact effect_sameCalls he (hi st (List.mem_of_getElem? hst))
  · exact ⟨rfl, rfl, rfl, rfl, rfl⟩

theorem regaddr_no_call (c : Params) (p : Nat) (f : Family) (m : AddrMode) :
    ∀ st ∈ program c (.regaddr p f m), st.isCall = false :=
  List.forall_mem_cons.mpr ⟨rfl, List.forall_mem_singleton.mpr rfl⟩

/-- Settles O37: REGADDR's two statements are a check and the store to RESULT. -/
theorem frameOfRegaddr : Obligations.FrameOfRegaddr := by
  intro p f m s t h
  obtain ⟨hcmd, hdelay, hpinlen, hpinstr, hcfg, hturns, hhost⟩ := exec_sameOperands h
  obtain ⟨htrace, hreplies, hclock, hdraws, hticks⟩ := exec_sameCalls h (regaddr_no_call s.cfg p f m)
  have hstores := exec_stores h
  have houtcfg := hstores.outcfg.resolve_right fun ⟨_, hi⟩ => nomatch hi
  have hdump := hstores.dump.resolve_right nofun
  refine ⟨hcmd, hdelay, hpinlen, hpinstr, hdump, hcfg, hturns, hhost, htrace, hreplies, hclock, hdraws, hticks, houtcfg,
    fun a hstatus hresult => windowByte_congr ?_⟩
  exact readWindow_congr (fun _ => hcmd) (fun _ => hdelay) (fun h => absurd h (by omega)) (fun h => absurd h (by omega))
    (fun _ => hcfg) (fun _ => hpinlen) (fun _ => hpinstr) (fun _ => hdump)

end Sys2Proof.Machine
end

section
/-! A command run to its end where every call it makes is answered ok (93_implementation_defined U1, 70_reset_and_hazards
R325). `run_of_compiles` asks bus and clock alike to go on returning; here each call asks only its own agent, so that a
command that never sleeps says nothing of the clock. -/

namespace Sys2Proof.Machine

/-! ### Answers, call by call -/

/-- The given calls are answered in turn: a bus call with ok, and a read with its three bytes; a Sleep returns. -/
def answersOk : List Call → State → Prop
  | [], _ => True
  | .write d bytes :: cs, s =>
    (∃ data, s.replyAt 0 0 = .returns .ok data) ∧ answersOk cs (s.afterBus (.busWrite d.idx d.addr bytes .ok))
  | .read d base :: cs, s =>
    s.brokenRead 3 = none ∧ ∃ data, s.replyAt 0 3 = .returns .ok data
      ∧ answersOk cs { s.afterBus (.busRead d.idx d.addr 3 .ok data) with dump := storeThree s.dump base data }
  | .sleep :: cs, s => s.clockAt 0 = .returns ∧ answersOk cs s.afterSleep

theorem busOk_afterBus {n : Nat} {s : State} (h : s.busOk (n + 1)) (e : Event) : (s.afterBus e).busOk n := by
  intro k hk
  rw [replyAt_afterBus]
  exact h (k + 1) (Nat.succ_lt_succ hk)

theorem wakes_afterSleep {n : Nat} {s : State} (h : s.wakes (n + 1)) : s.afterSleep.wakes n := by
  intro k hk
  rw [clockAt_afterSleep]
  exact h (k + 1) (Nat.succ_lt_succ hk)

/-- How many of the calls are Sleeps, and how many are bus calls. -/
def sleepCount (cs : List Call) : Nat := cs.countP (· = .sleep)

def busCount (cs : List Call) : Nat := cs.length - sleepCount cs

@[simp] theorem sleepCount_nil : sleepCount [] = 0 := rfl

@[simp] theorem sleepCount_write (d : Device) (bytes : List Byte) (cs : List Call) :
    sleepCount (.write d bytes :: cs) = sleepCount cs := by simp [sleepCount]

@[simp] theorem sleepCount_sleep (cs : List Call) : sleepCount (.sleep :: cs) = sleepCount cs + 1 := by simp [sleepCount]

@[simp] theorem busCount_nil : busCount [] = 0 := rfl

@[simp] theorem busCount_write (d : Device) (bytes : List Byte) (cs : List Call) :
    busCount (.write d bytes :: cs) = busCount cs + 1 := by
  have : sleepCount cs ≤ cs.length := List.countP_le_length
  rw [busCount, busCount, sleepCount_write, List.length_cons]
  omega

@[simp] theorem busCount_sleep (cs : List Call) : busCount (.sleep :: cs) = busCount cs := by
  rw [busCount, busCount, sleepCount_sleep, List.length_cons, Nat.add_sub_add_right]

/-- An answering bus and a clock that wakes answer calls without a read. -/
theorem answersOk_of_busOk {cs : List Call} {s : State} (hread : ∀ d base, .read d base ∉ cs)
    (hb : s.busOk (busCount cs)) (hw : s.wakes (sleepCount cs)) : answersOk cs s := by
  induction cs generalizing s with
  | nil => trivial
  | cons c cs ih =>
    have hread' (d : Device) (base : Fin 22) : .read d base ∉ cs := fun h => hread d base (.tail _ h)
    cases c with
    | write d bytes =>
      rw [busCount_write] at hb
      rw [sleepCount_write] at hw
      exact ⟨hb 0 (Nat.succ_pos _), ih hread' (busOk_afterBus hb _) hw⟩
    | read d base => exact absurd List.mem_cons_self (hread d base)
    | sleep =>
      rw [busCount_sleep] at hb
      rw [sleepCount_sleep] at hw
      exact ⟨hw 0 (Nat.succ_pos _), ih hread' hb (wakes_afterSleep hw)⟩

/-! ### The end of the calls -/

/-- The state after calls, none of them a read, that were all answered ok: `State.afterOk` before the completion. -/
def State.afterCalls (s : State) (calls : List Call) : State :=
  { s with
    trace := s.trace ++ calls.map (Call.okEvent s.delay)
    replies := s.replies.drop (busCount calls)
    draws := s.draws + busCount calls
    clock := s.clock.drop (sleepCount calls)
    ticks := s.ticks + sleepCount calls }

theorem State.afterCalls_ended (s : State) (calls : List Call) : (s.afterCalls calls).ended = s.afterOk calls := rfl

theorem State.afterCalls_nil (s : State) : s.afterCalls [] = s := by
  simp [State.afterCalls]

theorem State.afterCalls_write (s : State) (d : Device) (bytes : List Byte) (cs : List Call) :
    s.afterCalls (.write d bytes :: cs) = (s.afterBus (.busWrite d.idx d.addr bytes .ok)).afterCalls cs := by
  simp [State.afterCalls, State.afterBus, Call.okEvent, Nat.add_assoc, Nat.add_comm 1]

theorem State.afterCalls_sleep (s : State) (cs : List Call) :
    s.afterCalls (.sleep :: cs) = s.afterSleep.afterCalls cs := by
  simp [State.afterCalls, State.afterSleep, Call.okEvent, Nat.add_assoc, Nat.add_comm 1]

/-- Calls without a read that are answered ok go through to the end. -/
theorem runCalls_of_answersOk (fin : State → State) {cs : List Call} {s : State} (hread : ∀ d base, .read d base ∉ cs)
    (h : answersOk cs s) : runCalls fin cs s = (fin (s.afterCalls cs)).ended := by
  induction cs generalizing s with
  | nil => rw [runCalls, State.afterCalls_nil]
  | cons c cs ih =>
    have hread' (d : Device) (base : Fin 22) : .read d base ∉ cs := fun h => hread d base (.tail _ h)
    cases c with
    | write d bytes =>
      obtain ⟨⟨data, hr⟩, h⟩ := h
      rw [State.afterCalls_write, ← ih hread' h]
      simp only [runCalls, hr]
    | read d base => exact absurd List.mem_cons_self (hread d base)
    | sleep =>
      obtain ⟨hr, h⟩ := h
      rw [State.afterCalls_sleep, ← ih hread' h]
      simp only [runCalls, hr]

/-! ### The run -/

/-- Statements that were performed are no longer ahead. -/
theorem Ahead.after {i : Instr} {s t : State} {run run' : Run} (done : List Stmt) {l : List Stmt}
    (h : Ahead i s run (done ++ l)) (hpos : run'.pos = run.pos + done.length) (hcfg : t.cfg = s.cfg) :
    Ahead i t run' l := by
  obtain ⟨hrest, hle⟩ := h
  have hlen := congrArg List.length hrest
  rw [List.length_drop, List.length_append] at hlen
  refine ⟨?_, ?_⟩
  · rw [hcfg, hpos, ← List.drop_drop, hrest, List.drop_left]
  · rw [hcfg, hpos]
    omega

/-- At the end of its program a command completes (30_encoding R112). -/
theorem exists_run_nil {i : Instr} {s : State} {run : Run} (ha : Ahead i s run []) :
    ∃ n, execTimes i n { s with seq := .running run } = .next s.ended := by
  refine ⟨1, execTimes_succ i 0 ?_⟩
  rw [exec_eq_perform, perform_end (run := run) rfl (List.drop_eq_nil_iff.mp ha.rest)]
  rfl

section
variable {i : Instr} {st : Stmt} {l : List Stmt} {s t u : State} {run run' : Run}

/-- A statement that is performed is one step of the run. -/
theorem exists_run_cons (ha : Ahead i s run (st :: l))
    (h : st.perform run { s with seq := .running run } = .next { t with seq := .running run' })
    (hx : ∃ n, execTimes i n { t with seq := .running run' } = .next u) :
    ∃ n, execTimes i n { s with seq := .running run } = .next u := by
  obtain ⟨n, hx⟩ := hx
  exact ⟨n + 1, (execTimes_head n ha h).trans hx⟩

/-- An argument check that passes. -/
theorem exists_run_check (hst : st.isArgumentCheck = true) (ha : Ahead i s run (st :: l))
    (hok : st.argumentOk s.pinlen s.pinstr = true)
    (hx : ∃ n, execTimes i n { s with seq := .running { run with pos := run.pos + 1 } } = .next u) :
    ∃ n, execTimes i n { s with seq := .running run } = .next u := by
  refine exists_run_cons ha ?_ hx
  rw [perform_argumentCheck hst, hok]
  rfl

/-- A change of a PatternState that is held. -/
theorem exists_run_pattern {f : PatternState → PatternState} {p : PatternState}
    (hst : ∀ s, st.perform run s = s.updatePattern f run) (ha : Ahead i s run (st :: l)) (hp : run.ps = some p)
    (hx : ∃ n, execTimes i n { s with seq := .running { run with pos := run.pos + 1, ps := some (f p) } } = .next u) :
    ∃ n, execTimes i n { s with seq := .running run } = .next u := by
  refine exists_run_cons ha ?_ hx
  rw [hst, State.updatePattern, hp]
  rfl

end

/-- THE RUN OF A COMMAND whose calls are answered ok ends as `runCalls` says. -/
theorem run_of_answersOk {i : Instr} {fin : State → State} {ps : Option PatternState} {l : List Stmt} {cs : List Call}
    {pinlen : BitVec 6} {pinstr : Vector Byte 32} {s : State} {run : Run} (hc : Compiles pinlen pinstr fin ps l cs)
    (ha : Ahead i s run l) (hps : run.ps = ps) (h : answersOk cs s) (hpl : s.pinlen = pinlen) (hpi : s.pinstr = pinstr) :
    ∃ n, execTimes i n { s with seq := .running run } = .next (runCalls fin cs s) := by
  induction hc generalizing s run with
  | nil ps => exact exists_run_nil ha
  | outcfg ps =>
    exact exists_run_cons (t := { s with status := s.status.configured }) ha rfl
      (exists_run_nil (ha.after [_] rfl rfl))
  | result ps e b hb =>
    refine exists_run_cons (t := { s with result := b }) (run' := { run with pos := run.pos + 1 }) ha ?_
      (exists_run_nil (ha.after [_] rfl rfl))
    subst hps hpi
    rw [Stmt.perform, hb]
    rfl
  | port p hlt hl ih =>
    exact exists_run_check rfl ha (decide_eq_true hlt) (ih (ha.after [_] rfl rfl) hps h hpl hpi)
  | len hlen hl ih =>
    exact exists_run_check rfl ha (beq_iff_eq.mpr (hpl.trans hlen)) (ih (ha.after [_] rfl rfl) hps h hpl hpi)
  | char k hk hl ih =>
    subst hpi
    exact exists_run_check rfl ha hk (ih (ha.after [_] rfl rfl) hps h hpl rfl)
  | setPort q hl ih => exact exists_run_pattern (fun _ => rfl) ha hps (ih (ha.after [_] rfl rfl) rfl h hpl hpi)
  | setI j hl ih => exact exists_run_pattern (fun _ => rfl) ha hps (ih (ha.after [_] rfl rfl) rfl h hpl hpi)
  | fillAcc hl ih => exact exists_run_pattern (fun _ => rfl) ha hps (ih (ha.after [_] rfl rfl) rfl h hpl hpi)
  | write d payload bytes hb hl ih =>
    subst hps hpi
    obtain ⟨⟨data, hr⟩, h⟩ := h
    obtain ⟨n, hx⟩ := ih (s := s.afterBus (.busWrite d.idx d.addr bytes .ok))
      (run := { run with pos := run.pos + 2, result := .ok, data := [] }) (ha.after [_, _] rfl rfl) rfl h hpl rfl
    refine ⟨n + 2, (execTimes_write n ha hb hr).trans ?_⟩
    simp only [runCalls, hr]
    exact hx
  | read d base k0 k1 k2 h0 h1 h2 hl ih =>
    obtain ⟨hb, data, hr, h⟩ := h
    obtain ⟨n, hx⟩ := ih
      (s := { s.afterBus (.busRead d.idx d.addr 3 .ok data) with dump := storeThree s.dump base data })
      (run := { run with pos := run.pos + 5, result := .ok, data := data }) (ha.after [_, _, _, _, _] rfl rfl) hps h
      hpl hpi
    refine ⟨n + 5, (execTimes_read n h0 h1 h2 ha hb hr).trans ?_⟩
    simp only [runCalls, hr]
    exact hx
  | sleep hl ih =>
    obtain ⟨hr, h⟩ := h
    have hw : State.clockAt 0 { s with seq := .running run } = .returns := hr
    simp only [runCalls, hr]
    refine exists_run_cons (t := s.afterSleep) (run' := { run with pos := run.pos + 1 }) ha ?_
      (ih (ha.after [_] rfl rfl) hps h hpl hpi)
    rw [Stmt.perform, State.sleep, State.nextClock, hw]
    rfl

/-- A command with valid arguments and no read, run from its latch with an answering bus and clock. -/
theorem run_of_busOk {i : Instr} {s : State} (hs : s.atStart i) (hv : s.argumentsValid i = true)
    (hread : ∀ d base, .read d base ∉ s.calls i) (hb : s.busOk (busCount (s.calls i)))
    (hw : s.wakes (sleepCount (s.calls i))) :
    ∃ n, execTimes i n s = .next (finishOf i (s.afterCalls (s.calls i))).ended := by
  have hok := answersOk_of_busOk hread hb hw
  have hrun := run_of_answersOk (compiles_program hv) (Ahead.start i s) rfl hok rfl rfl
  rwa [hs.withSeq_eq, runCalls_of_answersOk _ hread hok] at hrun

end Sys2Proof.Machine
end

section
/-! CFGOUT and REGADDR from their latch to their end (40_register_map_and_bus R142, R145, R150). -/

namespace Sys2Proof.Machine

/-! ### CFGOUT (40_register_map_and_bus R145, R150) -/

section
variable (c : Params) (bytes : List Byte)

theorem writeCalls_no_read (d : Device) (base : Fin 22) : .read d base ∉ writeCalls c bytes := by
  simp [writeCalls]

@[simp] theorem sleepCount_writeCalls : sleepCount (writeCalls c bytes) = 0 := by
  simp [sleepCount, writeCalls]

@[simp] theorem busCount_writeCalls : busCount (writeCalls c bytes) = c.ndev := by
  rw [busCount, sleepCount_writeCalls, writeCalls, List.length_map, Params.devices_length, Nat.sub_zero]

/-- A register write that is answered ok: one event and one answer a device. -/
theorem State.afterCalls_writeCalls (s : State) : s.afterCalls (writeCalls c bytes) = { s with
    trace := s.trace ++ c.devices.map (fun d => .busWrite d.idx d.addr bytes .ok)
    replies := s.replies.drop c.ndev
    draws := s.draws + c.ndev } := by
  have hevents : (writeCalls c bytes).map (Call.okEvent s.delay)
      = c.devices.map fun d => .busWrite d.idx d.addr bytes .ok := List.map_map
  rw [State.afterCalls, hevents, busCount_writeCalls, sleepCount_writeCalls]
  rfl

end

/-- Settles O41: CFGOUT's calls are one register write, and its end adds OUTCFG. -/
theorem cfgoutConfiguresEveryDevice : Obligations.CfgoutConfiguresEveryDevice := by
  intro s hs hb
  have hcalls : s.calls .cfgout = writeCalls s.cfg [0x8C#8, 0x00#8, 0x00#8, 0x00#8] := rfl
  have hrun := run_of_busOk (i := .cfgout) hs rfl
  rw [hcalls, busCount_writeCalls, sleepCount_writeCalls, State.afterCalls_writeCalls] at hrun
  exact hrun (writeCalls_no_read _ _) hb nofun

/-! ### REGADDR (40_register_map_and_bus R142) -/

theorem addressBits_eq_ofNat {p : Nat} (hp : p < 3) (f : Family) (m : AddrMode) :
    addressBits p f m = BitVec.ofNat 8 (0x80 * m.toBit.toNat + 4 * f.toBits.toNat + p) := by
  rw [← addressBits_toNat hp, BitVec.ofNat_toNat, BitVec.setWidth_eq]

/-- Settles O48: REGADDR of a valid port makes no call, and its end stores R108's bits. -/
theorem regaddrQueriesTheRegisterMap : Obligations.RegaddrQueriesTheRegisterMap := by
  intro p f m s hp hs
  rw [← addressBits_eq_ofNat hp]
  have hrun := run_of_busOk hs (validPort_isSome.mpr hp) nofun nofun nofun
  rwa [show s.calls (.regaddr p f m) = [] from rfl, State.afterCalls_nil] at hrun

end Sys2Proof.Machine
end

section
/-! Frames of the nine output commands and of DUMP (41_port_controller R172 to R180, 42_pattern_engine): the output
commands store to no register, and DUMP stores to one entry of its buffer at a time (10_state R48). -/

namespace Sys2Proof.Machine

/-- Settles O35: only CFGOUT, REGADDR and DUMP store to a register. -/
theorem frameOfTheOutputCommands : Obligations.FrameOfTheOutputCommands := by
  intro i s t hi h
  obtain ⟨hcfgout, hregaddr, hdump⟩ : i ≠ .cfgout ∧ (∀ p f m, i ≠ .regaddr p f m) ∧ i ≠ .dump := by
    obtain ⟨_, _, rfl⟩ | ⟨_, rfl⟩ | rfl | ⟨_, rfl⟩ | ⟨_, rfl⟩ | ⟨_, rfl⟩ | ⟨_, rfl⟩ | ⟨_, rfl⟩ | rfl := hi <;>
      exact ⟨nofun, nofun, nofun⟩
  obtain ⟨hcmd, hdelay, hpinlen, hpinstr, hcfg, hturns, hhost⟩ := exec_sameOperands h
  have hstores := exec_stores h
  have hresult := hstores.result_eq hregaddr
  have hdump := hstores.dump.resolve_right hdump
  have houtcfg := hstores.outcfg.resolve_right fun ⟨_, e⟩ => hcfgout e
  exact ⟨hcmd, hdelay, hresult, hpinlen, hpinstr, hdump, hcfg, hturns, hhost, houtcfg,
    fun a ha => windowByte_eq_of_sameRegisters ha hcmd hdelay hresult hcfg hpinlen hpinstr hdump⟩

/-! ### DUMP -/

/-- An entry of DUMP is a byte of the window (10_state R48). -/
theorem windowByte_dump (s : State) (k : Fin 24) : s.windowByte (0x40 + k.val) = s.dump[k] := by
  have hword : 4 * ((0x40 + k.val) / 4) = 0x40 + 4 * (k.val / 4) := by omega
  have hlane : (0x40 + k.val) % 4 = k.val % 4 := by omega
  have hentry := lane_dumpWord s.dump ⟨k.val / 4, by omega⟩ ⟨k.val % 4, by omega⟩
  rw [State.windowByte, hword, hlane, readWindow_dump s ⟨k.val / 4, by omega⟩, hentry]
  exact getElem_congr_idx (Nat.div_add_mod k.val 4)

/-- A statement that stores to DUMP writes the byte of the last read and goes on (41_port_controller R180). -/
theorem storeDump_next {k : Fin 24} {p : Nat} {run : Run} {s t : State}
    (h : (Stmt.storeDump k p).perform run s = .next t) :
    ∃ b, run.data[p]? = some b ∧ t = State.advance run { s with dump := s.dump.set k b } := by
  simp only [Stmt.perform] at h
  split at h
  · cases h
    exact ⟨_, ‹_›, rfl⟩
  · cases h

/-- A statement of a command that does not store to DUMP leaves it. -/
theorem exec_dump_eq {i : Instr} {s t : State} {run : Run} (h : exec i s = .next t) (hs : s.seq = .running run)
    (hst : ∀ k p, (program s.cfg i)[run.pos]? ≠ some (.storeDump k p)) : t.dump = s.dump := by
  obtain ⟨run', hs', hstep⟩ := exec_next h
  obtain rfl : run = run' := Sequencer.running.inj (hs.symm.trans hs')
  obtain ⟨st, hat, he⟩ | ⟨_, rfl⟩ := hstep
  · refine (effect_stores he).dump.resolve_right ?_
    rintro ⟨k, p, rfl⟩
    exact hst k p hat
  · rfl

/-- Settles O38: a byte of the window is outside DUMP, or an entry of it, which only a store to that entry writes. -/
theorem frameOfDump : Obligations.FrameOfDump := by
  intro s t h
  obtain ⟨hcmd, hdelay, hpinlen, hpinstr, hcfg, hturns, hhost⟩ := exec_sameOperands h
  have hstores := exec_stores h
  have hresult := hstores.result_eq nofun
  have houtcfg := hstores.outcfg.resolve_right fun ⟨_, e⟩ => nomatch e
  have hwindow (a : Nat) (ha : a / 4 ≠ 2) (hout : a < 0x40 ∨ 0x58 ≤ a) : t.windowByte a = s.windowByte a :=
    windowByte_congr (readWindow_congr (fun _ => hcmd) (fun _ => hdelay) (fun h => absurd h (by omega)) (fun _ => hresult)
      (fun _ => hcfg) (fun _ => hpinlen) (fun _ => hpinstr) fun h => absurd h (by omega))
  refine ⟨hcmd, hdelay, hresult, hpinlen, hpinstr, hcfg, hturns, hhost, houtcfg, hwindow, fun run k p hs hst => ?_,
    fun run hs hst => exec_dump_eq h hs hst⟩
  rw [exec_eq_perform, perform_at hs hst] at h
  obtain ⟨b, hb, rfl⟩ := storeDump_next h
  refine ⟨⟨b, hb, Vector.getElem_set_self k.isLt⟩, fun a hak ha => ?_⟩
  by_cases hout : a < 0x40 ∨ 0x58 ≤ a
  · exact hwindow a ha hout
  · obtain ⟨j, rfl⟩ : ∃ j : Fin 24, a = 0x40 + j.val := ⟨⟨a - 0x40, by omega⟩, by dsimp only; omega⟩
    rw [windowByte_dump, windowByte_dump]
    exact Vector.getElem_set_ne k.isLt j.isLt (by omega)

end Sys2Proof.Machine
end

section
/-! WRPORT, SETALL and SETPINS from their latch to their end (41_port_controller R170 to R178): each is a few register
writes, which an answering bus takes one event a device. -/

namespace Sys2Proof.Machine

/-- A command that makes one register write and is answered ok (40_register_map_and_bus R145). -/
theorem run_of_writeCalls {i : Instr} {s : State} {bytes : List Byte} (hs : s.atStart i)
    (hv : s.argumentsValid i = true) (hcalls : s.calls i = writeCalls s.cfg bytes) (hb : s.busOk s.cfg.ndev) :
    ∃ n, execTimes i n s = .next (finishOf i { s with
      trace := s.trace ++ s.cfg.devices.map (fun d => .busWrite d.idx d.addr bytes .ok)
      replies := s.replies.drop s.cfg.ndev
      draws := s.draws + s.cfg.ndev }).ended := by
  have hrun := run_of_busOk hs hv
  rw [hcalls, busCount_writeCalls, sleepCount_writeCalls, State.afterCalls_writeCalls] at hrun
  exact hrun (writeCalls_no_read _ _) hb nofun

/-! ### WRPORT (41_port_controller R172) -/

theorem outputRegister_eq_add (q : Fin 3) : outputRegister q = 0x04#8 + BitVec.ofNat 8 q.val := by
  revert q
  decide

theorem wrport_calls {p : Nat} (hp : p < 3) (b : Byte) (s : State) :
    s.calls (.wrport p b) = writeCalls s.cfg [0x04#8 + BitVec.ofNat 8 p, b] := by
  rw [State.calls, validPort, dif_pos hp]
  exact congrArg (fun r => writeCalls s.cfg [r, b]) (outputRegister_eq_add ⟨p, hp⟩)

/-- Settles O42: WRPORT of a valid port is one register write. -/
theorem wrportWritesOnePort : Obligations.WrportWritesOnePort := fun _ b s hp hs hb =>
  run_of_writeCalls hs (validPort_isSome.mpr hp) (wrport_calls hp b s) hb

/-! ### SETALL (41_port_controller R171, R174) -/

@[simp] theorem sleepCount_append (cs ds : List Call) : sleepCount (cs ++ ds) = sleepCount cs + sleepCount ds :=
  List.countP_append

@[simp] theorem busCount_append (cs ds : List Call) : busCount (cs ++ ds) = busCount cs + busCount ds := by
  have hc : sleepCount cs ≤ cs.length := List.countP_le_length
  have hd : sleepCount ds ≤ ds.length := List.countP_le_length
  simp only [busCount, sleepCount_append, List.length_append]
  omega

section
variable (c : Params) (b : Byte)

theorem okEvents_writeCalls (bytes : List Byte) (delay : Word) : (writeCalls c bytes).map (Call.okEvent delay)
    = c.devices.map fun d => .busWrite d.idx d.addr bytes .ok :=
  List.map_map

/-- `SetAll` writes the registers 0x04, 0x05, 0x06 in turn (40_register_map_and_bus R140). -/
theorem okEvents_allCalls (delay : Word) : (allCalls c b).map (Call.okEvent delay)
    = [0x04#8, 0x05#8, 0x06#8].flatMap fun a => c.devices.map fun d => .busWrite d.idx d.addr [a, b] .ok := by
  simp [allCalls, portCalls, outputRegister, okEvents_writeCalls]

theorem allCalls_no_read (d : Device) (base : Fin 22) : .read d base ∉ allCalls c b := by
  simp [allCalls, portCalls, writeCalls_no_read]

@[simp] theorem sleepCount_allCalls : sleepCount (allCalls c b) = 0 := by
  simp [allCalls, portCalls]

@[simp] theorem busCount_allCalls : busCount (allCalls c b) = 3 * c.ndev := by
  simp only [allCalls, portCalls, busCount_append, busCount_writeCalls]
  omega

/-- `SetAll` answered ok: for each port one event and one answer a device. -/
theorem State.afterCalls_allCalls (s : State) : s.afterCalls (allCalls c b) = { s with
    trace := s.trace ++ [0x04#8, 0x05#8, 0x06#8].flatMap (fun a => c.devices.map fun d =>
      .busWrite d.idx d.addr [a, b] .ok)
    replies := s.replies.drop (3 * c.ndev)
    draws := s.draws + 3 * c.ndev } := by
  rw [State.afterCalls, okEvents_allCalls, busCount_allCalls, sleepCount_allCalls]
  rfl

end

theorem setall_calls (l : Level) (s : State) :
    s.calls (.setall l) = allCalls s.cfg (if l = .on then 0xFF#8 else 0x00#8) := by
  cases l <;> rfl

/-- Settles O43: SETALL's calls are those of `SetAll`. -/
theorem setallWritesAllPorts : Obligations.SetallWritesAllPorts := by
  intro l s hs hb
  have hrun := run_of_busOk hs rfl
  rw [setall_calls, busCount_allCalls, sleepCount_allCalls, State.afterCalls_allCalls] at hrun
  exact hrun (allCalls_no_read _ _) hb nofun

/-! ### SETPINS (41_port_controller R176 to R178) -/

theorem pinsValid_iff_characters (s : State) :
    s.pinsValid = true ↔ s.pinlen = 24#6 ∧ ∀ k : Fin 24, s.pinstr[k.val] = 0x30#8 ∨ s.pinstr[k.val] = 0x31#8 := by
  simp [State.pinsValid]

/-- Settles O45: the string is not valid, so a check fails before any call. -/
theorem setpinsRejectsABadString : Obligations.SetpinsRejectsABadString := by
  intro s hs hbad
  have hinvalid : ¬ s.pinsValid = true := by
    rw [pinsValid_iff_characters]
    rintro ⟨hlen, hchars⟩
    obtain hlen' | ⟨k, h0, h1⟩ := hbad
    · exact hlen' hlen
    · exact (hchars k).elim h0 h1
  obtain ⟨n, _, hrun⟩ := run_of_invalidArguments (i := .setpins) hs hinvalid
  exact ⟨n, hrun⟩

/-- The string spells the bytes: character `8g + j` is '1' where bit `7 - j` of byte `g` is 1, else '0' (R178). -/
def Spells (pinstr : Vector Byte 32) (b : Fin 3 → Byte) : Prop :=
  ∀ (g : Fin 3) (j : Fin 8), pinstr[8 * g.val + j.val]'(by omega) = if (b g).getLsbD (7 - j.val) then 0x31#8 else 0x30#8

/-- A byte from its bits, most significant first (20_memory R78). -/
theorem append_bits (b : Byte) :
    BitVec.ofBool (b.getLsbD 7) ++ BitVec.ofBool (b.getLsbD 6) ++ BitVec.ofBool (b.getLsbD 5)
      ++ BitVec.ofBool (b.getLsbD 4) ++ BitVec.ofBool (b.getLsbD 3) ++ BitVec.ofBool (b.getLsbD 2)
      ++ BitVec.ofBool (b.getLsbD 1) ++ BitVec.ofBool (b.getLsbD 0) = b := by
  refine BitVec.eq_of_getLsbD_eq (w := 8) fun k hk => ?_
  match k, hk with
  | 0, _ | 1, _ | 2, _ | 3, _ | 4, _ | 5, _ | 6, _ | 7, _ =>
    simp only [BitVec.getLsbD_append, BitVec.getLsbD_ofBool]
    rfl

section
variable {pinstr : Vector Byte 32} {b : Fin 3 → Byte} (h : Spells pinstr b)
include h

theorem Spells.isPinChar (g : Fin 3) (j : Fin 8) : isPinChar (pinstr[8 * g.val + j.val]'(by omega)) = true := by
  rw [h g j]
  cases (b g).getLsbD (7 - j.val) <;> rfl

theorem Spells.pinBit_eq (g : Fin 3) (j : Fin 8) : pinBit pinstr g j = BitVec.ofBool ((b g).getLsbD (7 - j.val)) := by
  rw [pinBit, h g j]
  cases (b g).getLsbD (7 - j.val) <;> rfl

theorem Spells.pinGroup_eq (g : Fin 3) : pinGroup pinstr g = b g := by
  simp only [pinGroup, h.pinBit_eq]
  exact append_bits (b g)

theorem Spells.characters (k : Fin 24) : pinstr[k.val] = 0x30#8 ∨ pinstr[k.val] = 0x31#8 := by
  have hchar := h.isPinChar ⟨k.val / 8, by omega⟩ ⟨k.val % 8, by omega⟩
  simpa [Machine.isPinChar, Nat.div_add_mod] using hchar

end

/-- Settles O46: R177's sum is the byte of the group's bits. -/
theorem pinStringRoundTrip : Obligations.PinStringRoundTrip := fun _ _ (h : Spells _ _) g =>
  (pinByte_eq_pinGroup (h.isPinChar g)).trans (h.pinGroup_eq g)

theorem setpins_calls {s : State} {b : Fin 3 → Byte} (hv : s.pinsValid = true) (h : Spells s.pinstr b) :
    s.calls .setpins = writeCalls s.cfg [0x84#8, b 0, b 1, b 2] := by
  rw [State.calls, if_pos hv, h.pinGroup_eq, h.pinGroup_eq, h.pinGroup_eq]

/-- Settles O44: a string that spells bytes is valid, and SETPINS is one burst of them. -/
theorem setpinsWritesTheThreeBytes : Obligations.SetpinsWritesTheThreeBytes := by
  intro s b hs hlen (hspells : Spells s.pinstr b) hb
  have hv : s.pinsValid = true := (pinsValid_iff_characters s).mpr ⟨hlen, hspells.characters⟩
  exact run_of_writeCalls hs hv (setpins_calls hv hspells) hb

end Sys2Proof.Machine
end

section
/-! DUMP from its latch to its end (41_port_controller R180). Its run is a list of groups, each a pointer write and a read;
the group `g` of the device `d` is read number `4d + g` of the run, whose bytes go to the entries from `12d + 3g` on
(10_state R48). -/

namespace Sys2Proof.Machine

/-- The groups in the order DUMP reads them: device by device (41_port_controller R180). -/
def dumpOrder (c : Params) : List (Device × Fin 4) := c.devices.flatMap fun d => [0, 1, 2, 3].map (d, ·)

/-- The number of a group's read in the run. -/
def groupNumber (x : Device × Fin 4) : Nat := 4 * x.1.idx.val + x.2.val

/-- The first entry of a group (10_state R48). -/
def groupBase (x : Device × Fin 4) : Fin 22 := ⟨12 * x.1.idx.val + 3 * x.2.val, by omega⟩

/-- The pointer of a group: 0x80, 0x84, 0x88, 0x8C (40_register_map_and_bus R140). -/
def groupPointer (x : Device × Fin 4) : Byte := 0x80#8 + BitVec.ofNat 8 (4 * x.2.val)

def groupCalls (x : Device × Fin 4) : List Call := [.write x.1 [groupPointer x], .read x.1 (groupBase x)]

theorem groupBase_eq (x : Device × Fin 4) : (groupBase x).val = 3 * groupNumber x := by
  simp only [groupBase, groupNumber]
  omega

theorem flatMap_dumpOrder {α : Type} (c : Params) (f : Device × Fin 4 → List α) :
    (dumpOrder c).flatMap f = c.devices.flatMap fun d => [0, 1, 2, 3].flatMap fun g => f (d, g) := by
  simp [dumpOrder, List.flatMap_assoc]

theorem dumpCalls_eq_flatMap (c : Params) : dumpCalls c = (dumpOrder c).flatMap groupCalls := by
  rw [flatMap_dumpOrder]
  rfl

/-- The reads of the run are numbered in their order. -/
theorem groupNumber_dumpOrder (c : Params) : (dumpOrder c).map groupNumber = List.range' 0 (4 * c.ndev) := by
  cases h : c.addr1 with
  | none =>
    have hn : c.ndev = 1 := by simp [Params.ndev, h]
    rw [dumpOrder, Params.devices_single h, hn]
    rfl
  | some a =>
    have hn : c.ndev = 2 := by simp [Params.ndev, h]
    rw [dumpOrder, Params.devices_dual h, hn]
    rfl

theorem dumpOrder_length (c : Params) : (dumpOrder c).length = 4 * c.ndev := by
  simpa using congrArg List.length (groupNumber_dumpOrder c)

/-! ### The entries -/

theorem getElem_storeThree_add (v : Vector Byte 24) (base : Fin 22) (f : Fin 3 → Byte) (j : Fin 3) :
    (storeThree v base [f 0, f 1, f 2])[base.val + j.val] = f j := by
  match j with
  | 0 | 1 | 2 => simp [storeThree]

theorem getElem_storeThree_outside (v : Vector Byte 24) {base : Fin 22} (b0 b1 b2 : Byte) {k : Fin 24}
    (h : k.val < base.val ∨ base.val + 3 ≤ k.val) : (storeThree v base [b0, b1, b2])[k] = v[k] := by
  have h0 : base.val ≠ k.val := by omega
  have h1 : base.val + 1 ≠ k.val := by omega
  have h2 : base.val + 2 ≠ k.val := by omega
  simp [storeThree, h0, h1, h2]

section
variable (bytes : Nat → Fin 3 → Byte)

/-- The bytes of a group's read. -/
def groupData (x : Device × Fin 4) : List Byte :=
  [bytes (groupNumber x) 0, bytes (groupNumber x) 1, bytes (groupNumber x) 2]

def storeGroup (v : Vector Byte 24) (x : Device × Fin 4) : Vector Byte 24 :=
  storeThree v (groupBase x) (groupData bytes x)

theorem getElem_storeGroup (v : Vector Byte 24) (x : Device × Fin 4) (k : Fin 24) :
    (storeGroup bytes v x)[k]
      = if k.val / 3 = groupNumber x then bytes (k.val / 3) ⟨k.val % 3, by omega⟩ else v[k] := by
  have hbase := groupBase_eq x
  split
  · rename_i h
    have hk : k.val = (groupBase x).val + k.val % 3 := by omega
    rw [h]
    exact (getElem_congr_idx hk).trans (getElem_storeThree_add v _ _ ⟨k.val % 3, by omega⟩)
  · exact getElem_storeThree_outside v _ _ _ (by omega)

/-- Where the groups read are those numbered from `n` on, an entry holds its byte of its group if that is one of them. -/
theorem getElem_foldl_storeGroup {l : List (Device × Fin 4)} {n : Nat}
    (hl : l.map groupNumber = List.range' n l.length) (v : Vector Byte 24) (k : Fin 24) :
    (l.foldl (storeGroup bytes) v)[k]
      = if n ≤ k.val / 3 ∧ k.val / 3 < n + l.length then bytes (k.val / 3) ⟨k.val % 3, by omega⟩ else v[k] := by
  induction l generalizing n v with
  | nil => exact (if_neg (by simp)).symm
  | cons x l ih =>
    obtain ⟨hx, hl⟩ := List.cons.inj hl
    rw [List.foldl_cons, ih hl, getElem_storeGroup, hx, List.length_cons]
    by_cases hk : k.val / 3 = n
    · rw [if_neg (by omega), if_pos hk, if_pos (by omega)]
    · have hiff : n + 1 ≤ k.val / 3 ∧ k.val / 3 < n + 1 + l.length
          ↔ n ≤ k.val / 3 ∧ k.val / 3 < n + (l.length + 1) := by omega
      simp only [if_neg hk, hiff]

/-! ### The run -/

/-- The events of a group whose calls return ok. -/
def groupEvents (x : Device × Fin 4) : List Event :=
  [.busWrite x.1.idx x.1.addr [groupPointer x] .ok, .busRead x.1.idx x.1.addr 3 .ok (groupData bytes x)]

/-- The events of the run, as 41_port_controller R180 lists them. -/
theorem flatMap_groupEvents (c : Params) : (dumpOrder c).flatMap (groupEvents bytes) = c.devices.flatMap fun d =>
    [0, 1, 2, 3].flatMap fun g =>
      [.busWrite d.idx d.addr [0x80#8 + BitVec.ofNat 8 (4 * g)] .ok,
       .busRead d.idx d.addr 3 .ok
        [bytes (4 * d.idx.val + g) 0, bytes (4 * d.idx.val + g) 1, bytes (4 * d.idx.val + g) 2]] :=
  flatMap_dumpOrder c (groupEvents bytes)

/-- The state after the groups were read. -/
def State.afterGroups (s : State) (l : List (Device × Fin 4)) : State :=
  { s with
    trace := s.trace ++ l.flatMap (groupEvents bytes)
    replies := s.replies.drop (2 * l.length)
    draws := s.draws + 2 * l.length
    dump := l.foldl (storeGroup bytes) s.dump }

theorem getElem_ended_afterGroups_dump {l : List (Device × Fin 4)} {n : Nat}
    (hl : l.map groupNumber = List.range' n l.length) (s : State) (k : Fin 24) :
    (s.afterGroups bytes l).ended.dump[k]
      = if n ≤ k.val / 3 ∧ k.val / 3 < n + l.length then bytes (k.val / 3) ⟨k.val % 3, by omega⟩ else s.dump[k] :=
  getElem_foldl_storeGroup bytes hl s.dump k

theorem State.afterGroups_nil (s : State) : s.afterGroups bytes [] = s := by
  simp [State.afterGroups]

theorem State.afterGroups_cons (s : State) (x : Device × Fin 4) (l : List (Device × Fin 4)) :
    s.afterGroups bytes (x :: l) = (s.afterGroups bytes [x]).afterGroups bytes l := by
  have hlen : 2 * (l.length + 1) = 2 + 2 * l.length := by omega
  simp [State.afterGroups, hlen, Nat.add_assoc]

/-- A group's pointer write and read, answered. -/
theorem State.afterGroups_singleton (s : State) (x : Device × Fin 4) :
    s.afterGroups bytes [x] = { (s.afterBus (.busWrite x.1.idx x.1.addr [groupPointer x] .ok)).afterBus
      (.busRead x.1.idx x.1.addr 3 .ok (groupData bytes x)) with dump := storeGroup bytes s.dump x } := by
  simp [State.afterGroups, State.afterBus, groupEvents, ← List.drop_one]

theorem replyAt_afterGroup (s : State) (x : Device × Fin 4) (k n : Nat) :
    (s.afterGroups bytes [x]).replyAt k n = s.replyAt (k + 2) n := by
  rw [State.afterGroups_singleton, ← replyAt_afterBus (.busWrite x.1.idx x.1.addr [groupPointer x] .ok),
    ← replyAt_afterBus (.busRead x.1.idx x.1.addr 3 .ok (groupData bytes x))]
  rfl

/-- Each group's pointer write returns ok, and its read returns ok with the group's bytes. -/
def State.groupsAnswered (s : State) (l : List (Device × Fin 4)) : Prop :=
  ∀ k x, l[k]? = some x → (∃ data, s.replyAt (2 * k) 0 = .returns .ok data)
    ∧ s.replyAt (2 * k + 1) 3 = .returns .ok (groupData bytes x)

/-- A read that returns the number of bytes asked for is not refused (20_memory R73). -/
theorem brokenRead_eq_none {s : State} {n : Nat} {data : List Byte} (h : s.replyAt 0 n = .returns .ok data)
    (hn : data.length = n) : s.brokenRead n = none := by
  cases hb : s.brokenRead n with
  | none => rfl
  | some got =>
    obtain ⟨data', rest, hreplies, hn'⟩ := brokenRead_some hb
    rw [State.replyAt, hreplies] at h
    cases h
    exact absurd hn hn'

/-- A group whose calls are answered goes by (40_register_map_and_bus R147). -/
theorem run_of_groupAnswered {s : State} {x : Device × Fin 4} {cs : List Call} {data : List Byte}
    (hwrite : s.replyAt 0 0 = .returns .ok data) (hread : s.replyAt 1 3 = .returns .ok (groupData bytes x)) :
    (answersOk cs (s.afterGroups bytes [x]) → answersOk (groupCalls x ++ cs) s)
      ∧ ∀ fin, runCalls fin (groupCalls x ++ cs) s = runCalls fin cs (s.afterGroups bytes [x]) := by
  have hread' := (replyAt_afterBus (.busWrite x.1.idx x.1.addr [groupPointer x] .ok) s 0 3).trans hread
  rw [State.afterGroups_singleton]
  refine ⟨fun h => ⟨⟨data, hwrite⟩, brokenRead_eq_none hread' rfl, groupData bytes x, hread', h⟩, fun fin => ?_⟩
  simp only [groupCalls, List.cons_append, List.nil_append, runCalls, hwrite, hread']
  rfl

variable {bytes}

theorem groupsAnswered_tail {s : State} {x : Device × Fin 4} {l : List (Device × Fin 4)}
    (h : s.groupsAnswered bytes (x :: l)) : (s.afterGroups bytes [x]).groupsAnswered bytes l := by
  intro k y hk
  rw [replyAt_afterGroup, replyAt_afterGroup]
  exact h (k + 1) y hk

theorem run_of_groupsAnswered {s : State} {l : List (Device × Fin 4)} (h : s.groupsAnswered bytes l) :
    answersOk (l.flatMap groupCalls) s
      ∧ ∀ fin, runCalls fin (l.flatMap groupCalls) s = (fin (s.afterGroups bytes l)).ended := by
  induction l generalizing s with
  | nil =>
    rw [State.afterGroups_nil]
    exact ⟨trivial, fun _ => rfl⟩
  | cons x l ih =>
    obtain ⟨⟨data, hwrite⟩, hread⟩ := h 0 x rfl
    obtain ⟨hok, hrun⟩ := ih (groupsAnswered_tail h)
    obtain ⟨hcons, hrunCons⟩ := run_of_groupAnswered bytes hwrite hread
    rw [List.flatMap_cons, State.afterGroups_cons]
    exact ⟨hcons hok, fun fin => (hrunCons fin).trans (hrun fin)⟩

/-- The run's reads are answered when the reply to each names the bytes of its number. -/
theorem groupsAnswered_dumpOrder {s : State}
    (h : ∀ k, k < 4 * s.cfg.ndev → (∃ data, s.replyAt (2 * k) 0 = .returns .ok data)
      ∧ s.replyAt (2 * k + 1) 3 = .returns .ok [bytes k 0, bytes k 1, bytes k 2]) :
    s.groupsAnswered bytes (dumpOrder s.cfg) := by
  intro k x hx
  have hk := lt_of_getElem?_eq_some hx
  rw [dumpOrder_length] at hk
  have hnumber := congrArg (·[k]?) (groupNumber_dumpOrder s.cfg)
  simp only [List.getElem?_map, hx, Option.map_some, List.getElem?_range', hk, Nat.zero_add, Nat.one_mul,
    Option.some.injEq] at hnumber
  rw [groupData, hnumber]
  exact h k hk

end

/-- Settles O47: DUMP's run is its groups' reads, numbered in the order of the entries they fill. -/
theorem dumpReadsEveryGroup : Obligations.DumpReadsEveryGroup := by
  intro s bytes hs h
  obtain ⟨hok, hcalls⟩ := run_of_groupsAnswered (groupsAnswered_dumpOrder h)
  rw [← dumpCalls_eq_flatMap] at hok hcalls
  obtain ⟨n, hrun⟩ := run_of_answersOk (compiles_program (i := .dump) rfl) (Ahead.start .dump s) rfl hok rfl rfl
  have hend : runCalls (finishOf .dump) (s.calls .dump) s = (s.afterGroups bytes (dumpOrder s.cfg)).ended := hcalls _
  rw [hs.withSeq_eq, hend] at hrun
  have hlen := dumpOrder_length s.cfg
  have hentry := getElem_ended_afterGroups_dump bytes (n := 0) (hlen ▸ groupNumber_dumpOrder s.cfg) s
  refine ⟨n, _, hrun, ?_, fun k hk => ?_, fun k hk => ?_, rfl, rfl, rfl, rfl, rfl, rfl, rfl, rfl, ?_⟩
  · exact congrArg (s.trace ++ ·) (flatMap_groupEvents bytes s.cfg)
  · rw [hentry, if_pos (by omega)]
  · rw [hentry, if_neg (by omega)]
  · have hreplies : 2 * (dumpOrder s.cfg).length = 8 * s.cfg.ndev := by omega
    exact congrArg s.replies.drop hreplies

end Sys2Proof.Machine
end

section
/-! The six patterns from their latch to their end (42_pattern_engine R202 to R235). How many Sleeps and bus calls stand in
the calls of a rule is counted once (R240), so that `run_of_busOk` asks of bus and clock what the pattern needs. -/

namespace Sys2Proof.Machine

/-! ### The calls of a pattern, counted (42_pattern_engine R240) -/

/-- Turns of a loop that count the same: `count` is `sleepCount` or `busCount`. -/
theorem count_flatMap {α : Type} {count : List Call → Nat} (hnil : count [] = 0)
    (happend : ∀ cs ds, count (cs ++ ds) = count cs + count ds) {f : α → List Call} {n : Nat} (h : ∀ a, count (f a) = n)
    (l : List α) : count (l.flatMap f) = l.length * n := by
  induction l with
  | nil => rw [List.flatMap_nil, hnil, List.length_nil, Nat.zero_mul]
  | cons a l ih => rw [List.flatMap_cons, happend, h, ih, List.length_cons, Nat.succ_mul, Nat.add_comm]

section
variable (c : Params) (m : Mode) (p : Fin 3) (rest : Byte) (bytes : List Byte)

@[simp] theorem sleepCount_frameCalls : sleepCount (frameCalls c bytes) = bytes.length :=
  (count_flatMap sleepCount_nil sleepCount_append (n := 1) (fun b => by simp) bytes).trans (Nat.mul_one _)

@[simp] theorem busCount_frameCalls : busCount (frameCalls c bytes) = bytes.length * (3 * c.ndev) :=
  count_flatMap busCount_nil busCount_append (fun b => by simp) bytes

@[simp] theorem sleepCount_framedCalls : sleepCount (framedCalls c rest bytes) = bytes.length := by
  simp [framedCalls]

@[simp] theorem busCount_framedCalls : busCount (framedCalls c rest bytes) = 3 * (bytes.length + 2) * c.ndev := by
  rw [framedCalls, busCount_append, busCount_append, busCount_allCalls, busCount_frameCalls, Nat.mul_left_comm,
    Nat.mul_assoc, Nat.add_mul]
  omega

theorem walkBytes_length : (walkBytes m).length = 8 := by cases m <;> rfl

theorem pairBytes_length : (pairBytes m).length = 4 := by cases m <;> rfl

theorem fillBytes_length : (fillBytes m).length = 8 := by cases m <;> rfl

@[simp] theorem sleepCount_portCalls (b : Byte) : sleepCount (portCalls c p b) = 0 := sleepCount_writeCalls c _

@[simp] theorem busCount_portCalls (b : Byte) : busCount (portCalls c p b) = c.ndev := busCount_writeCalls c _

@[simp] theorem sleepCount_move1PortCalls : sleepCount (move1PortCalls c m p) = 8 := by
  rw [move1PortCalls, count_flatMap sleepCount_nil sleepCount_append (n := 1) (fun b => by simp), walkBytes_length]

@[simp] theorem busCount_move1PortCalls : busCount (move1PortCalls c m p) = 8 * c.ndev := by
  rw [move1PortCalls, count_flatMap busCount_nil busCount_append (n := c.ndev) (fun b => by simp), walkBytes_length]

/-- How many handoff writes MOVE1 makes (42_pattern_engine R210, D17). -/
def handoffCount : Handoff → Nat
  | .restore => 2
  | .none => 0

@[simp] theorem sleepCount_handoffCalls : sleepCount (handoffCalls c m p) = 0 := by
  cases h : c.handoff <;> simp [handoffCalls, h]

@[simp] theorem sleepCount_move1Calls : sleepCount (move1Calls c m) = 24 := by
  simp [move1Calls]

theorem busCount_move1Calls : busCount (move1Calls c m) = (30 + handoffCount c.handoff) * c.ndev := by
  have hhandoff (p : Fin 3) : 2 * busCount (handoffCalls c m p) = handoffCount c.handoff * c.ndev := by
    unfold handoffCalls handoffCount
    cases c.handoff with
    | restore => exact congrArg (2 * ·) (busCount_portCalls c p _)
    | none => exact (Nat.zero_mul _).symm
  simp only [move1Calls, busCount_append, busCount_allCalls, busCount_move1PortCalls, Nat.add_mul]
  have h0 := hhandoff 0
  have h1 := hhandoff 1
  omega

end

/-! ### The runs -/

section
variable {c : Params} {i : Instr} {s : State}

theorem frameCalls_no_read (bytes : List Byte) (d : Device) (base : Fin 22) : .read d base ∉ frameCalls c bytes := by
  simp [frameCalls, allCalls_no_read]

theorem framedCalls_no_read (rest : Byte) (bytes : List Byte) (d : Device) (base : Fin 22) :
    .read d base ∉ framedCalls c rest bytes := by
  simp [framedCalls, allCalls_no_read, frameCalls_no_read]

theorem move1Calls_no_read (m : Mode) (d : Device) (base : Fin 22) : .read d base ∉ move1Calls c m := by
  cases h : c.handoff <;> simp [move1Calls, move1PortCalls, handoffCalls, portCalls, writeCalls_no_read, allCalls_no_read, h]

theorem argumentsValid_of_isPattern (hi : isPattern i = true) (s : State) : s.argumentsValid i = true := by
  cases i with
  | wrport => cases hi
  | regaddr => cases hi
  | setpins => cases hi
  | _ => rfl

theorem finishOf_of_isPattern (hi : isPattern i = true) (s : State) : finishOf i s = s := by
  cases i with
  | cfgout => cases hi
  | regaddr => cases hi
  | _ => rfl

/-- A pattern with an answering bus and clock makes the calls of its rule and ends. -/
theorem run_of_pattern {calls : List Call} (hi : isPattern i = true) (hs : s.atStart i) (hcalls : s.calls i = calls)
    (hread : ∀ d base, .read d base ∉ calls) (hb : s.busOk (busCount calls)) (hw : s.wakes (sleepCount calls)) :
    ∃ n, execTimes i n s = .next (s.afterOk calls) := by
  subst hcalls
  have hrun := run_of_busOk hs (argumentsValid_of_isPattern hi s) hread hb hw
  rwa [finishOf_of_isPattern hi, State.afterCalls_ended] at hrun

/-- A pattern of frames between resting levels (42_pattern_engine R202, R203). -/
theorem run_of_framedCalls {rest : Byte} {bytes : List Byte} (hi : isPattern i = true) (hs : s.atStart i)
    (hcalls : s.calls i = framedCalls s.cfg rest bytes) (hb : s.busOk (3 * (bytes.length + 2) * s.cfg.ndev))
    (hw : s.wakes bytes.length) : ∃ n, execTimes i n s = .next (s.afterOk (framedCalls s.cfg rest bytes)) := by
  refine run_of_pattern hi hs hcalls (framedCalls_no_read rest bytes) ?_ ?_
  · rwa [busCount_framedCalls]
  · rwa [sleepCount_framedCalls]

end

theorem State.busOk.mono {s : State} {n k : Nat} (h : s.busOk n) (hk : k ≤ n) : s.busOk k :=
  fun j hj => h j (Nat.lt_of_lt_of_le hj hk)

/-- Settles O49: with handoffs MOVE1 makes 32 port writes, without them 30. -/
theorem move1WalksEveryPin : Obligations.Move1WalksEveryPin := by
  intro m s hs hb hw
  refine run_of_pattern rfl hs rfl (move1Calls_no_read m) (hb.mono ?_) ?_
  · have hcount : handoffCount s.cfg.handoff ≤ 2 := by cases s.cfg.handoff <;> decide
    rw [busCount_move1Calls]
    exact Nat.mul_le_mul_right _ (Nat.add_le_add_left hcount 30)
  · rwa [sleepCount_move1Calls]

/-- Settles O50. -/
theorem move1in8WalksInUnison : Obligations.Move1in8WalksInUnison := by
  intro m s hs hb hw
  cases m <;> exact run_of_framedCalls rfl hs rfl hb hw

/-- Settles O51. -/
theorem move1in4WalksPairs : Obligations.Move1in4WalksPairs := by
  intro m s hs hb hw
  cases m <;> exact run_of_framedCalls rfl hs rfl hb hw

/-- Settles O52. -/
theorem incr1in8Fills : Obligations.Incr1in8Fills := by
  intro m s hs hb hw
  cases m <;> exact run_of_framedCalls rfl hs rfl hb hw

/-- Settles O53. -/
theorem decr1in8IsTheLiteralFill : Obligations.Decr1in8IsTheLiteralFill := by
  intro m s hs hb hw
  cases m <;> exact run_of_framedCalls rfl hs rfl hb hw

/-- Settles O54: two frames without a resting level. -/
theorem alternateToggles : Obligations.AlternateToggles := by
  intro s hs hb hw
  refine run_of_pattern rfl hs rfl (frameCalls_no_read _) ?_ ?_
  · rw [busCount_frameCalls, ← Nat.mul_assoc]
    exact hb
  · rw [sleepCount_frameCalls]
    exact hw

end Sys2Proof.Machine
end

section
/-! A pattern that completes (42_pattern_engine R240): it made all the calls of its rule, whatever its run. -/

namespace Sys2Proof.Machine

/-! ### A command that completes makes every call of its rule -/

/-- A statement that ends the command raises, and so leaves DONE 0 (60_exceptions R262). -/
theorem effect_done_of_idle {st : Stmt} {run : Run} {s t : State} (h : Stmt.Effect run s st t) (hs : s.seq = .running run)
    (ht : t.seq = .idle) : t.status.done = false := by
  cases effect_goes h with
  | waits h =>
    subst h
    cases hs.symm.trans ht
  | raises code dev _ h => rw [h, State.raiseError_status, Status.errored_done]
  | advances run' _ hseq _ => cases hseq.symm.trans ht

/-- A run to completion makes all the calls its remaining statements spell (20_memory R83, 30_encoding R112). -/
theorem execTimes_madeAll {i : Instr} {n : Nat} {s t : State} {run : Run} (hs : s.seq = .running run)
    (h : execTimes i n s = .next t) (hidle : t.seq = .idle) (hdone : t.status.done = true) :
    ∃ es, t.trace = s.trace ++ es ∧ es.map Event.call
      = (spelledCalls s.pinlen s.pinstr s.delay run.ps ((program s.cfg i).drop run.pos)).map some := by
  induction n generalizing s run with
  | zero =>
    cases h
    cases hs.symm.trans hidle
  | succ n ih =>
    obtain ⟨u, hu, hn⟩ := execTimes_succ_next h
    obtain ⟨run', hs', hstep⟩ := exec_next hu
    obtain rfl : run = run' := Sequencer.running.inj (hs.symm.trans hs')
    obtain ⟨st, hst, he⟩ | ⟨hend, rfl⟩ := hstep
    · obtain rfl | ⟨huidle, _⟩ | ⟨hok, run', es, hseq, hr, htrace, hes⟩ := effect_calls he
      · exact ih hs hn
      · cases execTimes_of_idle huidle hn
        cases hdone.symm.trans (effect_done_of_idle he hs huidle)
      · obtain ⟨es', htrace', hes'⟩ := ih hseq hn
        obtain ⟨hlt, hget⟩ := List.getElem?_eq_some_iff.mp hst
        have hsame := effect_sameOperands he
        rw [hsame.pinlen, hsame.pinstr, hsame.delay, hsame.cfg, hr.pos, hr.ps] at hes'
        refine ⟨es ++ es', by rw [htrace', htrace, List.append_assoc], ?_⟩
        rw [List.drop_eq_getElem_cons hlt, hget, spelledCalls, if_pos hok, List.map_append, List.map_append, hes, hes']
    · cases execTimes_of_idle (State.complete_seq s) hn
      refine ⟨[], (List.append_nil _).symm, ?_⟩
      rw [List.drop_eq_nil_of_le (List.getElem?_eq_none_iff.mp hend)]
      rfl

/-- A command that completes made exactly the calls of its rule. -/
theorem calls_of_completed {i : Instr} {n : Nat} {s t : State} (hs : s.atStart i) (h : execTimes i n s = .next t)
    (hidle : t.seq = .idle) (hdone : t.status.done = true) :
    ∃ es, t.trace = s.trace ++ es ∧ es.map Event.call = (s.calls i).map fun x => some (x.shown s.delay) := by
  obtain ⟨es, htrace, hes⟩ := execTimes_madeAll hs h hidle hdone
  rw [Run.start, List.drop_zero, spelledCalls_program, List.map_map] at hes
  exact ⟨es, htrace, hes⟩

/-! ### The events of the calls, counted -/

section
variable {es : List Event} {cs : List Call} {delay : Word}

/-- A kind of event is counted by the kind of call it shows. -/
theorem countP_events {q : Event → Bool} {r : Call → Bool}
    (hes : es.map Event.call = cs.map fun x => some (x.shown delay))
    (hqr : ∀ e, ∀ x ∈ cs, e.call = some (x.shown delay) → q e = r x) : es.countP q = cs.countP r := by
  induction es generalizing cs with
  | nil =>
    rw [List.map_eq_nil_iff.mp hes.symm]
    rfl
  | cons e es ih =>
    obtain ⟨x, cs, rfl, hx, htail⟩ := List.map_eq_cons_iff.mp hes.symm
    have hrest := ih htail.symm fun e y hy => hqr e y (.tail _ hy)
    rw [List.countP_cons, List.countP_cons, hrest, hqr e x List.mem_cons_self hx.symm]

theorem isSleep_of_shown {e : Event} {x : Call} (h : e.call = some (x.shown delay)) :
    Claims.isSleep e = decide (x = .sleep) := by
  match e, x, h with
  | .busWrite .., .write .., _ => rfl
  | .busRead .., .read .., _ => rfl
  | .sleep _, .sleep, _ => rfl

theorem isBusWrite_of_shown {e : Event} {x : Call} (h : e.call = some (x.shown delay)) (hx : ∀ d base, x ≠ .read d base) :
    Claims.isBusWrite e = !decide (x = .sleep) := by
  match e, x, h with
  | .busWrite .., .write .., _ => rfl
  | .busRead .., .read d base, _ => exact absurd rfl (hx d base)
  | .sleep _, .sleep, _ => rfl

theorem countP_isSleep (hes : es.map Event.call = cs.map fun x => some (x.shown delay)) :
    es.countP Claims.isSleep = sleepCount cs :=
  countP_events hes fun _ _ _ => isSleep_of_shown

theorem countP_isBusWrite (hes : es.map Event.call = cs.map fun x => some (x.shown delay))
    (hread : ∀ d base, .read d base ∉ cs) : es.countP Claims.isBusWrite = busCount cs := by
  have hcount := countP_events (q := Claims.isBusWrite) (r := fun x => !decide (x = .sleep)) hes fun _ x hx h =>
    isBusWrite_of_shown h fun d base hr => hread d base (hr ▸ hx)
  have hsplit : cs.length = sleepCount cs + cs.countP fun x => !decide (x = .sleep) := by
    simpa [sleepCount] using List.length_eq_countP_add_countP (fun x => decide (x = Call.sleep)) (l := cs)
  rw [hcount, busCount]
  omega

end

/-! ### The table of 42_pattern_engine R240 -/

/-- The calls are `W` port writes and `S` Sleeps. -/
structure CallsCount (c : Params) (W S : Nat) (cs : List Call) : Prop where
  no_read : ∀ d base, .read d base ∉ cs
  bus     : busCount cs = W * c.ndev
  sleeps  : sleepCount cs = S

/-- A pattern of `k` frames between resting levels (42_pattern_engine R202, R203). -/
theorem framedCalls_callsCount (c : Params) (rest : Byte) {bytes : List Byte} {k : Nat} (h : bytes.length = k) :
    CallsCount c (3 * (k + 2)) k (framedCalls c rest bytes) where
  no_read := framedCalls_no_read rest bytes
  bus := by rw [busCount_framedCalls, h]
  sleeps := by rw [sleepCount_framedCalls, h]

theorem move1Calls_callsCount (c : Params) (m : Mode) :
    CallsCount c (30 + handoffCount c.handoff) 24 (move1Calls c m) where
  no_read := move1Calls_no_read m
  bus := busCount_move1Calls c m
  sleeps := sleepCount_move1Calls c m

theorem alternate_callsCount (c : Params) : CallsCount c 6 2 (frameCalls c [0xAA#8, 0x55#8]) where
  no_read := frameCalls_no_read _
  bus := by rw [busCount_frameCalls, ← Nat.mul_assoc]; rfl
  sleeps := sleepCount_frameCalls c _

theorem patternCounts_move1 (h : Handoff) (m : Mode) :
    Claims.patternCounts h (.move1 m) = some (30 + handoffCount h, 24) := by
  cases h <;> rfl

/-- The calls of a pattern's rule are as many as R240 says. -/
theorem calls_callsCount {i : Instr} {s : State} {W S : Nat}
    (h : Claims.patternCounts s.cfg.handoff i = some (W, S)) : CallsCount s.cfg W S (s.calls i) := by
  cases i with
  | move1 m =>
    cases (patternCounts_move1 s.cfg.handoff m).symm.trans h
    exact move1Calls_callsCount s.cfg m
  | move1in8 m =>
    cases h
    exact framedCalls_callsCount s.cfg _ (walkBytes_length m)
  | move1in4 m =>
    cases h
    exact framedCalls_callsCount s.cfg _ (pairBytes_length m)
  | incr1in8 m =>
    cases h
    exact framedCalls_callsCount s.cfg _ (fillBytes_length m)
  | decr1in8 m =>
    cases h
    cases m <;> exact framedCalls_callsCount s.cfg _ (fillBytes_length _)
  | alternate =>
    cases h
    exact alternate_callsCount s.cfg
  | _ => cases h

/-- Settles O58: a completed pattern made exactly the calls of its rule, which R240's table counts. -/
theorem patternCallCounts : Obligations.PatternCallCounts := by
  intro i s t n W S hcounts hs h hidle hdone
  obtain ⟨es, htrace, hes⟩ := calls_of_completed hs h hidle hdone
  obtain ⟨hread, hbus, hsleeps⟩ := calls_callsCount hcounts
  exact ⟨es, htrace, (countP_isBusWrite hes hread).trans hbus, (countP_isSleep hes).trans hsleeps⟩

end Sys2Proof.Machine
end

section
/-! DECR1IN8 is INCR1IN8 with the mode flipped (42_pattern_engine R230, 90_conflicts C4). Flipping the polarity of every
byte expression and PS.mode together changes no value, so that a program with its polarities flipped, run from the flipped
PatternState, takes the same steps. -/

namespace Sys2Proof.Machine

open Sys2Proof.Claims (flipPattern)

/-! ### Flipped expressions -/

def Polarity.flip : Polarity → Polarity
  | .asMode => .flipped
  | .flipped => .asMode

def PatternState.flip (p : PatternState) : PatternState := { p with mode := flipMode p.mode }

def ByteExpr.flip : ByteExpr → ByteExpr
  | .rest pol => .rest pol.flip
  | .walk pol => .walk pol.flip
  | .pair pol => .pair pol.flip
  | .fill pol => .fill pol.flip
  | e => e

theorem Polarity.flip_apply (pol : Polarity) (m : Mode) : pol.flip.apply (flipMode m) = pol.apply m := by
  cases pol <;> cases m <;> rfl

section
variable (pinstr : Vector Byte 32) (ps : Option PatternState)

theorem PortExpr.eval_flip (p : PortExpr) : p.eval (ps.map PatternState.flip) = p.eval ps := by
  cases p <;> cases ps <;> rfl

theorem withPattern_flip {α : Type} {f g : PatternState → Except Stop α} (h : ∀ p, f p.flip = g p) :
    withPattern (ps.map PatternState.flip) f = withPattern ps g := by
  cases ps with
  | none => rfl
  | some p => exact h p

theorem ByteExpr.eval_flip (e : ByteExpr) : e.flip.eval pinstr (ps.map PatternState.flip) = e.eval pinstr ps := by
  cases e with
  | lit => rfl
  | pin => rfl
  | regAddr p f m => simp only [ByteExpr.flip, ByteExpr.eval, PortExpr.eval_flip]
  | rest pol => exact withPattern_flip ps fun p => by rw [PatternState.flip, pol.flip_apply]
  | walk pol => exact withPattern_flip ps fun p => by rw [PatternState.flip, pol.flip_apply]
  | pair pol => exact withPattern_flip ps fun p => by rw [PatternState.flip, pol.flip_apply]
  | fill pol => exact withPattern_flip ps fun p => by rw [PatternState.flip, pol.flip_apply]

theorem evalBytes_flip (es : List ByteExpr) :
    evalBytes pinstr (ps.map PatternState.flip) (es.map ByteExpr.flip) = evalBytes pinstr ps es := by
  induction es with
  | nil => rfl
  | cons e es ih => simp only [List.map_cons, evalBytes, ByteExpr.eval_flip, ih]

end

/-! ### Flipped programs -/

def Stmt.flip : Stmt → Stmt
  | .setResult e => .setResult e.flip
  | .busWrite d payload => .busWrite d (payload.map ByteExpr.flip)
  | st => st

section
variable (c : Params)

theorem setAll_flip (b : ByteExpr) : (setAll c b).map Stmt.flip = setAll c b.flip := by
  simp only [setAll, writePort, writeReg, List.map_append, List.map_flatMap]
  rfl

theorem frame_flip (b : ByteExpr) : (frame c b).map Stmt.flip = frame c b.flip := by
  rw [frame, List.map_append, setAll_flip]
  rfl

theorem fillProgram_flip (pol : Polarity) : (fillProgram c pol).map Stmt.flip = fillProgram c pol.flip := by
  simp only [fillProgram, framed, List.map_append, List.map_flatMap, List.map_cons, setAll_flip, frame_flip]
  rfl

end

/-! ### Flipped steps -/

def Run.flip (run : Run) : Run := { run with ps := run.ps.map PatternState.flip }

theorem flipPattern_running (run : Run) (s : State) :
    flipPattern { s with seq := .running run } = { s with seq := .running run.flip } := rfl

/-- `o'` answers what `o` answers, with PS.mode flipped. -/
def Flips (o o' : Host.Outcome State Fault Refusal) : Prop := ∀ t, o = .next t → o' = .next (flipPattern t)

theorem Flips.next {t u : State} (h : u = flipPattern t) : Flips (.next t) (.next u) := by
  intro v hv
  cases hv
  rw [h]

theorem Flips.refused (r : Refusal) (o' : Host.Outcome State Fault Refusal) : Flips (.refused r) o' := by
  intro t h
  cases h

section
variable (run : Run) (s : State)

theorem checkArgument_flips (valid : Bool) :
    Flips (.next (State.checkArgument valid run { s with seq := .running run }))
      (.next (State.checkArgument valid run.flip { s with seq := .running run.flip })) := by
  cases valid <;> exact .next rfl

theorem withValue_flips {α : Type} (v : Except Stop α) {go go' : α → State} (h : ∀ a, go' a = flipPattern (go a)) :
    Flips (withValue v { s with seq := .running run } go) (withValue v { s with seq := .running run.flip } go') := by
  match v with
  | .ok a => exact .next (h a)
  | .error (.raise code) => exact .next rfl
  | .error (.refuse r) => exact .refused r _

theorem busWrite_flip (d : Device) (bytes : List Byte) :
    State.busWrite d bytes run.flip { s with seq := .running run.flip }
      = flipPattern (State.busWrite d bytes run { s with seq := .running run }) := by
  have hr (r : Run) : State.nextReply 0 { s with seq := .running r } = s.nextReply 0 := rfl
  unfold State.busWrite
  rw [hr, hr]
  split <;> rfl

theorem busRead_flip (d : Device) (n : Nat) :
    State.busRead d n run.flip { s with seq := .running run.flip }
      = flipPattern (State.busRead d n run { s with seq := .running run }) := by
  have hr (r : Run) : State.nextReply n { s with seq := .running r } = s.nextReply n := rfl
  unfold State.busRead
  rw [hr, hr]
  split <;> rfl

theorem sleep_flip : State.sleep run.flip { s with seq := .running run.flip }
    = flipPattern (State.sleep run { s with seq := .running run }) := by
  have hr (r : Run) : State.nextClock { s with seq := .running r } = s.nextClock := rfl
  unfold State.sleep
  rw [hr, hr]
  split <;> rfl

theorem updatePattern_flips {f : PatternState → PatternState} (hf : ∀ p, f p.flip = (f p).flip) :
    Flips (State.updatePattern f run { s with seq := .running run })
      (State.updatePattern f run.flip { s with seq := .running run.flip }) := by
  obtain ⟨cmd, pos, result, data, ps⟩ := run
  cases ps with
  | none => exact .refused _ _
  | some p => exact .next (by rw [hf]; rfl)

theorem perform_flips (st : Stmt) : Flips (st.perform run { s with seq := .running run })
    (st.flip.perform run.flip { s with seq := .running run.flip }) := by
  cases st with
  | checkPort p => exact checkArgument_flips run s _
  | checkPinLen => exact checkArgument_flips run s _
  | checkPinChar k => exact checkArgument_flips run s _
  | setResult e =>
    simp only [Stmt.flip, Stmt.perform, Run.flip, ByteExpr.eval_flip]
    exact withValue_flips run s _ fun _ => rfl
  | setOutcfg => exact .next rfl
  | busWrite d payload =>
    simp only [Stmt.flip, Stmt.perform, Run.flip, evalBytes_flip]
    exact withValue_flips run s _ fun bytes => busWrite_flip run s d bytes
  | busRead d n =>
    have hb (r : Run) : State.brokenRead n { s with seq := .running r } = s.brokenRead n := rfl
    simp only [Stmt.flip, Stmt.perform, hb, busRead_flip]
    split
    · exact .refused _ _
    · exact .next rfl
  | check d =>
    have hresult : run.flip.result = run.result := rfl
    simp only [Stmt.flip, Stmt.perform, hresult]
    split <;> exact .next rfl
  | storeDump k p =>
    have hdata : run.flip.data = run.data := rfl
    simp only [Stmt.flip, Stmt.perform, hdata]
    split
    · exact .next rfl
    · exact .refused _ _
  | sleep => exact .next (sleep_flip run s)
  | setPort q => exact updatePattern_flips run s fun _ => rfl
  | setI j => exact updatePattern_flips run s fun _ => rfl
  | fillAcc => exact updatePattern_flips run s fun _ => rfl

end

theorem perform_program_flips (prog : List Stmt) (s : State) :
    Flips (perform prog s) (perform (prog.map Stmt.flip) (flipPattern s)) := by
  cases hs : s.seq with
  | idle =>
    rw [perform, hs]
    exact .refused _ _
  | running run =>
    have hrun : s = { s with seq := .running run } := by rw [← hs]
    rw [hrun, flipPattern_running]
    cases hst : prog[run.pos]? with
    | some st =>
      have hflip : (prog.map Stmt.flip)[run.flip.pos]? = some st.flip := by
        rw [List.getElem?_map]
        exact congrArg (Option.map Stmt.flip) hst
      rw [perform_at rfl hst, perform_at rfl hflip]
      exact perform_flips run s st
    | none =>
      have hend : prog.length ≤ run.pos := List.getElem?_eq_none_iff.mp hst
      rw [perform_end rfl hend, perform_end (run := run.flip) rfl (by rwa [List.length_map])]
      exact .next rfl

/-- Commands whose programs differ in polarity run alike from flipped states. -/
theorem execTimes_flips {i i' : Instr} (hprog : ∀ c, program c i' = (program c i).map Stmt.flip) (n : Nat) (s : State) :
    Flips (execTimes i n s) (execTimes i' n (flipPattern s)) := by
  induction n generalizing s with
  | zero => exact .next rfl
  | succ n ih =>
    intro t h
    obtain ⟨u, hu, hn⟩ := execTimes_succ_next h
    have hcfg : (flipPattern s).cfg = s.cfg := by cases hs : s.seq <;> simp [flipPattern, hs]
    have hstep : exec i' (flipPattern s) = .next (flipPattern u) := by
      rw [exec_eq_perform, hcfg, hprog]
      exact perform_program_flips _ s u (exec_eq_perform i s ▸ hu)
    rw [execTimes_succ i' n hstep]
    exact ih u t hn

/-- DECR1IN8's program is INCR1IN8's with the polarities flipped (42_pattern_engine R230), and the other way round. -/
theorem program_decr_flip (c : Params) (m m' : Mode) :
    program c (.decr1in8 m') = (program c (.incr1in8 m)).map Stmt.flip := (fillProgram_flip c .asMode).symm

theorem program_incr_flip (c : Params) (m m' : Mode) :
    program c (.incr1in8 m') = (program c (.decr1in8 m)).map Stmt.flip := (fillProgram_flip c .flipped).symm

/-- Settles O55: the two programs are each the other with its polarities flipped. -/
theorem decrIsIncrWithTheModeFlipped : Obligations.DecrIsIncrWithTheModeFlipped := fun m m' s n =>
  ⟨execTimes_flips (program_incr_flip · m m') n s, execTimes_flips (program_decr_flip · m m') n s⟩

end Sys2Proof.Machine
end

section
/-! PS.acc in a fill (42_pattern_engine R204): what PatternState is at each Sleep of INCR1IN8 and DECR1IN8. -/

namespace Sys2Proof.Machine

/-! ### PatternState at the Sleeps of a list of statements -/

/-- The PatternStates in which the Sleeps of the list are performed, from `p` on. -/
def sleepStates : PatternState → List Stmt → List PatternState
  | _, [] => []
  | p, .sleep :: l => p :: sleepStates p l
  | p, st :: l => sleepStates (st.patternEffect p) l

theorem sleepStates_append (p : PatternState) (l l' : List Stmt) :
    sleepStates p (l ++ l') = sleepStates p l ++ sleepStates (patternAfter p l) l' := by
  induction l generalizing p with
  | nil => rfl
  | cons st l ih =>
    cases st with
    | sleep => exact congrArg (p :: ·) (ih p)
    | _ => exact ih _

/-- A Sleep of the list is performed in one of them. -/
theorem mem_sleepStates {p : PatternState} {l : List Stmt} {k : Nat} (h : l[k]? = some .sleep) :
    patternAfter p (l.take k) ∈ sleepStates p l := by
  have hlt := lt_of_getElem?_eq_some h
  have hsplit : l = l.take k ++ .sleep :: l.drop (k + 1) := by
    rw [← (List.getElem?_eq_some_iff.mp h).2, List.getElem_cons_drop, List.take_append_drop]
  generalize hp : patternAfter p (l.take k) = q
  rw [hsplit, sleepStates_append, hp]
  exact List.mem_append_right _ List.mem_cons_self

/-! ### The Sleeps of a fill -/

section
variable (c : Params) (p : PatternState)

theorem patternAfter_append (l l' : List Stmt) : patternAfter p (l ++ l') = patternAfter (patternAfter p l) l' :=
  List.foldl_append

/-- Register writes leave PatternState alone and do not sleep (40_register_map_and_bus R145). -/
theorem patternAfter_writeReg (a : ByteExpr) (data : List ByteExpr) : patternAfter p (writeReg c a data) = p := by
  unfold writeReg
  induction c.devices with
  | nil => rfl
  | cons d ds ih => exact ih

theorem sleepStates_writeReg (a : ByteExpr) (data : List ByteExpr) : sleepStates p (writeReg c a data) = [] := by
  unfold writeReg
  induction c.devices with
  | nil => rfl
  | cons d ds ih => exact ih

theorem patternAfter_setAll (b : ByteExpr) : patternAfter p (setAll c b) = p := by
  simp only [setAll, writePort, patternAfter_append, patternAfter_writeReg]

theorem sleepStates_setAll (b : ByteExpr) : sleepStates p (setAll c b) = [] := by
  simp only [setAll, writePort, sleepStates_append, sleepStates_writeReg, List.append_nil]

theorem patternAfter_frame (b : ByteExpr) : patternAfter p (frame c b) = p := by
  rw [frame, patternAfter_append, patternAfter_setAll]
  rfl

theorem sleepStates_frame (b : ByteExpr) : sleepStates p (frame c b) = [p] := by
  rw [frame, sleepStates_append, sleepStates_setAll, patternAfter_setAll]
  rfl

/-- The loop of a fill sleeps once a turn (42_pattern_engine R225). -/
theorem sleepStates_fillLoop (e : ByteExpr) (js : List (Fin 8)) :
    sleepStates p (js.flatMap fun j => .setI j :: .fillAcc :: frame c e)
      = loopStates PatternState.steppedAndFilled p js := by
  induction js generalizing p with
  | nil => rfl
  | cons j js ih =>
    have hturn : sleepStates p (.setI j :: .fillAcc :: frame c e) = [p.steppedAndFilled j] := sleepStates_frame c _ e
    have hafter : patternAfter p (.setI j :: .fillAcc :: frame c e) = p.steppedAndFilled j := patternAfter_frame c _ e
    rw [List.flatMap_cons, sleepStates_append, hturn, hafter, ih]
    rfl

theorem sleepStates_fillProgram (pol : Polarity) :
    sleepStates p (fillProgram c pol) = loopStates PatternState.steppedAndFilled p steps8 := by
  simp only [fillProgram, framed, sleepStates_append, sleepStates_setAll, patternAfter_setAll, sleepStates_fillLoop,
    List.nil_append, List.append_nil]

end

/-- The fill of eight turns from 0x00: `2^(i+1) - 1`, the mode as it was (42_pattern_engine R204). -/
theorem acc_of_mem_fill (m : Mode) : ∀ p ∈ loopStates PatternState.steppedAndFilled (.start m) steps8,
    p.acc.toNat = 2 ^ (p.i.val + 1) - 1 ∧ p.mode = m := by
  cases m <;> decide

/-! ### The obligation -/

/-- At a Sleep of a fill that a word of mode `m` runs, PatternState is one of the fill's. -/
theorem Run.inv.fill_acc {c : Params} {run : Run} {i : Instr} {pol : Polarity} {p : PatternState} {m : Mode}
    (h : run.inv c) (hd : decodeWord run.cmd = .ok i) (hprog : program c i = fillProgram c pol)
    (hstart : initialPattern (encode i) = some (.start m)) (hps : run.ps = some p)
    (hsleep : (fillProgram c pol)[run.pos]? = some .sleep) : p.acc.toNat = 2 ^ (p.i.val + 1) - 1 ∧ p.mode = m := by
  obtain ⟨_, hafter, _⟩ := (Run.inv_iff hd).mp h
  obtain ⟨_, hword⟩ := encodeOfDecodeIsIdentity _ _ hd
  rw [← hword, hstart, hprog, hps] at hafter
  obtain rfl := Option.some.inj hafter
  refine acc_of_mem_fill m _ ?_
  rw [← sleepStates_fillProgram c (.start m) pol]
  exact mem_sleepStates hsleep

theorem initialPattern_encode_incr (m : Mode) : initialPattern (encode (.incr1in8 m)) = some (.start m) := by
  cases m <;> rfl

theorem initialPattern_encode_decr (m : Mode) : initialPattern (encode (.decr1in8 m)) = some (.start m) := by
  cases m <;> rfl

/-- Settles O56: DECR1IN8 sleeps where INCR1IN8 does, being its program with the polarities flipped, and both fill PS.acc
alike. -/
theorem accumulatorHoldsTheFill : Obligations.AccumulatorHoldsTheFill := by
  intro s run p m ⟨_, hseq⟩ hs hps hd hsleep
  obtain ⟨_, _, hrun⟩ := (State.seqInv_running hs).mp hseq
  obtain hd | hd := hd
  · exact hrun.fill_acc hd (pol := .asMode) rfl (initialPattern_encode_incr m) hps hsleep
  · refine hrun.fill_acc hd (pol := .flipped) rfl (initialPattern_encode_decr m) hps ?_
    have hprog : fillProgram s.cfg .flipped = (program s.cfg (.incr1in8 m)).map Stmt.flip :=
      (fillProgram_flip s.cfg .asMode).symm
    rw [hprog, List.getElem?_map, hsleep]
    rfl

end Sys2Proof.Machine
end

section
/-! Errors raised inside a command (60_exceptions R260 to R263) and calls that do not return (R275). A statement raises for
its argument or for the call it checks; with valid arguments of the command no statement of its program raises for one. -/

namespace Sys2Proof.Machine

/-! ### The statement at the position -/

/-- A command's step inside its rule performs the statement there (30_encoding R111). -/
theorem exec_at {i : Instr} {s : State} {run : Run} {st : Stmt} (hs : s.seq = .running run)
    (hst : (program s.cfg i)[run.pos]? = some st) : exec i s = st.perform run s :=
  (exec_eq_perform i s).trans (perform_at hs hst)

theorem perform_check_failed {run : Run} {code : ECode} (h : errorOf run.result = some code) (s : State) (d : Device) :
    Stmt.perform run s (.check d) = .next (s.failed code d.idx) := by
  rw [Stmt.perform, h]
  rfl

theorem perform_check_ok {run : Run} (h : run.result = .ok) (s : State) (d : Device) :
    Stmt.perform run s (.check d) = .next (s.advance run) := by
  rw [Stmt.perform, h]
  rfl

/-- Settles O31: the step is the check's, which raises for a result that stands for an error. -/
theorem checkRaisesTransportErrors : Obligations.CheckRaisesTransportErrors := by
  intro i s run d hs hst
  rw [exec_at hs hst]
  exact ⟨fun h => perform_check_failed (h ▸ rfl) s d, fun h => perform_check_failed (h ▸ rfl) s d,
    fun h => perform_check_ok h s d⟩

/-! ### Calls that do not return (60_exceptions R275, 70_reset_and_hazards R325) -/

section
variable {s : State} (run : Run) (d : Device)

theorem busWrite_never (bytes : List Byte) (h : s.replyAt 0 0 = .never) : s.busWrite d bytes run = s := by
  rw [State.busWrite, State.nextReply, h]

theorem busRead_never {n : Nat} (h : s.replyAt 0 n = .never) : s.busRead d n run = s := by
  rw [State.busRead, State.nextReply, h]

theorem sleep_never (h : s.clockAt 0 = .never) : s.sleep run = s := by
  rw [State.sleep, State.nextClock, h]

/-- A read that has not returned breaks no contract (20_memory R73). -/
theorem brokenRead_never {n : Nat} (h : s.replyAt 0 n = .never) : s.brokenRead n = none := by
  unfold State.brokenRead
  split
  · rename_i data _ hr
    rw [State.replyAt, hr] at h
    cases h
  · rfl

end

/-- Settles O33: the step is the call's, which leaves the state as it was until the call returns. -/
theorem callThatNeverReturnsWaits : Obligations.CallThatNeverReturnsWaits := by
  intro i s run hs
  refine ⟨fun d payload bytes hst hv hn => ?_, fun d n hst hn => ?_, fun hst hn => ?_⟩
  · rw [exec_at hs hst, Stmt.perform, hv, withValue, busWrite_never run d bytes hn]
  · rw [exec_at hs hst, Stmt.perform, brokenRead_never hn, busRead_never run d hn]
  · rw [exec_at hs hst, Stmt.perform, sleep_never run hn]

/-! ### What a statement raises for -/

section
variable {pinstr : Vector Byte 32} {ps : Option PatternState} {code : ECode}

/-- Whether a statement's argument is valid: its check passes, or what it writes has a value in some PatternState. -/
def Stmt.ArgumentValid (pinlen : BitVec 6) (pinstr : Vector Byte 32) : Stmt → Prop
  | .setResult e => ∃ ps b, e.eval pinstr ps = .ok b
  | .busWrite _ payload => ∃ ps bytes, evalBytes pinstr ps payload = .ok bytes
  | st => st.argumentOk pinlen pinstr = true

/-- Without PatternState a value read from it is refused, not raised (log entry 12). -/
theorem withPattern_ne_raise {α : Type} {f : PatternState → Except Stop α} (hf : ∀ p, f p ≠ .error (.raise code)) :
    withPattern ps f ≠ .error (.raise code) := by
  cases ps with
  | none => nofun
  | some p => exact hf p

theorem pairShift_ne_raise (n : Nat) : pairShift n ≠ .error (.raise code) := by
  unfold pairShift
  split <;> nofun

theorem regMapValue_raises {port : Nat} {f : Family} {m : AddrMode} (h : regMapValue port f m = .error (.raise code)) :
    code = .invalidArgument ∧ ¬ port < 3 := by
  by_cases hp : port < 3
  · rw [regMapValue_eq_addressBits hp] at h
    cases h
  · rw [regMapValue_invalid hp] at h
    cases h
    exact ⟨rfl, hp⟩

/-- An expression raises only for a port it names outside 0, 1, 2, whatever PatternState is (40_register_map_and_bus
R141). -/
theorem ByteExpr.eval_raises {e : ByteExpr} (h : e.eval pinstr ps = .error (.raise code)) :
    code = .invalidArgument ∧ ∀ ps' b, e.eval pinstr ps' ≠ .ok b := by
  cases e with
  | regAddr p f m =>
    cases p with
    | lit port =>
      obtain ⟨rfl, hp⟩ := regMapValue_raises h
      exact ⟨rfl, fun _ b hb => nomatch (regMapValue_invalid hp f m).symm.trans hb⟩
    | current =>
      cases ps with
      | none => cases h
      | some q => exact absurd q.port.isLt (regMapValue_raises h).2
  | lit => cases h
  | pin => cases h
  | rest => exact absurd h (withPattern_ne_raise nofun)
  | walk => exact absurd h (withPattern_ne_raise nofun)
  | fill => exact absurd h (withPattern_ne_raise nofun)
  | pair pol =>
    refine absurd h (withPattern_ne_raise fun p => ?_)
    cases hb : pairShift p.i.val with
    | ok b => nofun
    | error x =>
      rintro ⟨⟩
      exact pairShift_ne_raise _ hb

theorem evalBytes_raises {es : List ByteExpr} (h : evalBytes pinstr ps es = .error (.raise code)) :
    code = .invalidArgument ∧ ∀ ps' bytes, evalBytes pinstr ps' es ≠ .ok bytes := by
  induction es with
  | nil => cases h
  | cons e es ih =>
    cases he : e.eval pinstr ps with
    | error x =>
      simp only [evalBytes, he] at h
      cases h
      obtain ⟨hcode, hnone⟩ := ByteExpr.eval_raises he
      refine ⟨hcode, fun ps' bytes hb => ?_⟩
      obtain ⟨b, _, hb, _⟩ := evalBytes_cons_ok hb
      exact hnone ps' b hb
    | ok b =>
      cases hes : evalBytes pinstr ps es with
      | ok bs => simp [evalBytes, he, hes] at h
      | error x =>
        simp only [evalBytes, he, hes] at h
        cases h
        obtain ⟨hcode, hnone⟩ := ih hes
        refine ⟨hcode, fun ps' bytes hb => ?_⟩
        obtain ⟨_, bs, _, hbs, _⟩ := evalBytes_cons_ok hb
        exact hnone ps' bs hbs

end

/-- Why a statement raised: for an argument, with device 0, or for the call it checks, with the call's device
(60_exceptions R260, R261). -/
inductive Stmt.RaisesFor (st : Stmt) (run : Run) (s t : State) : Prop where
  | argument (h : ¬ st.ArgumentValid s.pinlen s.pinstr) (ht : t = s.raiseError .invalidArgument 0)
  | call (d : Device) (code : ECode) (hst : st = .check d) (hr : errorOf run.result = some code)
      (ht : t = s.raiseError code d.idx)

theorem effect_raises {st : Stmt} {run : Run} {s t : State} (h : Stmt.Effect run s st t) (hs : s.status.err = false)
    (ht : t.status.err = true) : st.RaisesFor run s t := by
  cases h with
  | badPort p hp => exact .argument (by simpa [Stmt.ArgumentValid, Stmt.argumentOk] using hp) rfl
  | badLen hp => exact .argument (by simpa [Stmt.ArgumentValid, Stmt.argumentOk] using hp) rfl
  | badChar k hk => exact .argument (by simpa [Stmt.ArgumentValid, Stmt.argumentOk] using hk) rfl
  | valueRaises code e h =>
    obtain ⟨rfl, hnone⟩ := ByteExpr.eval_raises h
    exact .argument (fun ⟨ps, b, hb⟩ => hnone ps b hb) rfl
  | payloadRaises code d payload h =>
    obtain ⟨rfl, hnone⟩ := evalBytes_raises h
    exact .argument (fun ⟨ps, bytes, hb⟩ => hnone ps bytes hb) rfl
  | callFailed d code h => exact .call d code rfl h rfl
  | _ => cases hs.symm.trans ht

/-- The step in which a command raises is that of the statement that raises. -/
theorem exec_raises {i : Instr} {s t : State} (h : exec i s = .next t) (hs : s.status.err = false)
    (ht : t.status.err = true) :
    ∃ run st, s.seq = .running run ∧ (program s.cfg i)[run.pos]? = some st ∧ st.RaisesFor run s t := by
  obtain ⟨run, hrun, ⟨st, hst, he⟩ | ⟨_, rfl⟩⟩ := exec_next h
  · exact ⟨run, st, hrun, hst, effect_raises he hs ht⟩
  · cases hs.symm.trans ht

/-- The errors a call's result stands for (60_exceptions R261). -/
theorem errorOf_some {r : CallResult} {code : ECode} (h : errorOf r = some code) :
    (code = .transportError ∧ r = .ioError) ∨ (code = .deviceNotFound ∧ r = .noAck) := by
  cases r with
  | ok => cases h
  | ioError => exact .inl ⟨(Option.some.inj h).symm, rfl⟩
  | noAck => exact .inr ⟨(Option.some.inj h).symm, rfl⟩

/-- Settles O32: a statement raises through the one error entry, for an argument or for a failed call. -/
theorem errorEntryChangesOnlyStatus : Obligations.ErrorEntryChangesOnlyStatus := by
  intro i s t h hs ht
  obtain ⟨_, _, _, _, hraises⟩ := exec_raises h hs ht
  cases hraises with
  | argument _ ht => exact ht ▸ ⟨rfl, nofun, nofun⟩
  | call d code _ hr ht =>
    obtain ⟨rfl, _⟩ | ⟨rfl, _⟩ := errorOf_some hr <;> exact ht ▸ ⟨rfl, nofun, nofun⟩

/-! ### The arguments of a command (60_exceptions R260) -/

/-- Statements that make the calls of a rule have valid arguments. -/
theorem Compiles.argumentValid {pinlen : BitVec 6} {pinstr : Vector Byte 32} {fin : State → State}
    {ps : Option PatternState} {l : List Stmt} {cs : List Call} (h : Compiles pinlen pinstr fin ps l cs) :
    ∀ st ∈ l, st.ArgumentValid pinlen pinstr := by
  induction h with
  | nil => nofun
  | outcfg => exact List.forall_mem_singleton.mpr rfl
  | result ps e b h => exact List.forall_mem_singleton.mpr ⟨ps, b, h⟩
  | port p h _ ih => exact List.forall_mem_cons.mpr ⟨decide_eq_true h, ih⟩
  | len h _ ih => exact List.forall_mem_cons.mpr ⟨beq_iff_eq.mpr h, ih⟩
  | char k h _ ih => exact List.forall_mem_cons.mpr ⟨h, ih⟩
  | write d payload bytes h _ ih =>
    exact List.forall_mem_cons.mpr ⟨⟨_, bytes, h⟩, List.forall_mem_cons.mpr ⟨rfl, ih⟩⟩
  | read _ _ _ _ _ _ _ _ _ ih => simpa [Stmt.ArgumentValid, Stmt.argumentOk] using ih
  | sleep _ ih => exact List.forall_mem_cons.mpr ⟨rfl, ih⟩
  | setPort _ _ ih => exact List.forall_mem_cons.mpr ⟨rfl, ih⟩
  | setI _ _ ih => exact List.forall_mem_cons.mpr ⟨rfl, ih⟩
  | fillAcc _ ih => exact List.forall_mem_cons.mpr ⟨rfl, ih⟩

/-- The commands that have an argument to be invalid. -/
theorem invalidArguments_cases {i : Instr} {s : State} (h : ¬ s.argumentsValid i = true) :
    (∃ p b, i = .wrport p b ∧ ¬ p < 3) ∨ (∃ p f m, i = .regaddr p f m ∧ ¬ p < 3)
      ∨ (i = .setpins ∧ (s.pinlen ≠ 24#6 ∨ ∃ k : Fin 24, s.pinstr[k.val] ≠ 0x30#8 ∧ s.pinstr[k.val] ≠ 0x31#8)) := by
  cases i with
  | wrport p b => exact .inl ⟨p, b, rfl, mt validPort_isSome.mpr h⟩
  | regaddr p f m => exact .inr (.inl ⟨p, f, m, rfl, mt validPort_isSome.mpr h⟩)
  | setpins =>
    refine .inr (.inr ⟨rfl, ?_⟩)
    have hbad := mt (pinsValid_iff_characters s).mpr h
    rw [Classical.not_and_iff_not_or_not, Classical.not_forall] at hbad
    exact hbad.imp_right fun ⟨k, hk⟩ => ⟨k, not_or.mp hk⟩
  | _ => exact absurd rfl h

/-- REGADDR makes no call, so it checks none (40_register_map_and_bus R142). -/
theorem check_not_mem_regaddr (c : Params) (p : Nat) (f : Family) (m : AddrMode) (d : Device) :
    .check d ∉ program c (.regaddr p f m) := by
  simp [program, regaddrProgram]

/-- Settles O59: with valid arguments no statement of the program raises for one, and a failed check
raises for the call's result. -/
theorem commandsRaiseTheirErrorsOnly : Obligations.CommandsRaiseTheirErrorsOnly := by
  intro i s t run hrun h hs ht
  obtain ⟨run', st, hrun', hst, hraises⟩ := exec_raises h hs ht
  cases hrun.symm.trans hrun'
  have hmem := List.mem_of_getElem? hst
  cases hraises with
  | argument harg ht =>
    have hinvalid : ¬ s.argumentsValid i = true := fun hv => harg ((compiles_program hv).argumentValid st hmem)
    exact .inl (ht ▸ ⟨rfl, rfl, invalidArguments_cases hinvalid⟩)
  | call d code hcheck hr ht =>
    have hregaddr : ∀ p f m, i ≠ .regaddr p f m := by
      rintro p f m rfl
      exact check_not_mem_regaddr s.cfg p f m d (hcheck ▸ hmem)
    obtain ⟨rfl, hresult⟩ | ⟨rfl, hresult⟩ := errorOf_some hr
    · exact .inr (.inl (ht ▸ ⟨rfl, hresult, hregaddr⟩))
    · exact .inr (.inr (ht ▸ ⟨rfl, hresult, hregaddr⟩))

end Sys2Proof.Machine
end
